-- ==== Sys2Proof/Word.lean ====
section
/-! DEFINITION. The widths of C8CORE's values (00_scope.md R4, R5): all are unsigned bit vectors; a register index is a
number below 16. -/

namespace Sys2Proof

/-- A memory byte or the contents of a general register (R4: XLEN_V, R10, R17). -/
abbrev Byte := BitVec 8

/-- An instruction word, the program counter, the index register or a call-stack entry (R4: PC_BITS, I_BITS). -/
abbrev Word := BitVec 16

/-- The four-bit family nibble of an instruction word (R7). -/
abbrev Nibble := BitVec 4

/-- The twelve-bit `nnn` field: a byte address 0x000..0xFFF (R65). -/
abbrev Addr12 := BitVec 12

/-- The index of a general register, 0..15 (R10): every value of a four-bit `x` or `y` field, and WAIT_REG (R16). -/
abbrev RegIndex := Fin 16

/-- `zext_16`, the only widening of the machine (R6): a field or a byte widened to sixteen bits with zeros. -/
abbrev zext16 {w : Nat} (b : BitVec w) : Word := b.setWidth 16

end Sys2Proof
end

