-- ==== Sys2Proof/Machine/Flags.lean ====
section
/-! DEFINITION. The flag values VF can get (10_state.md R11, 41_alu.md R106 to R110, 43_display.md R133), each computed from
the operand values the instruction found (R112), and exactly 0 or 1. -/

namespace Sys2Proof.Machine

/-- A condition as a flag byte: 0x01 or 0x00 (R11). -/
def flagByte (c : Bool) : Byte := if c then 0x01 else 0x00

/-- Carry of 8xy4: the exact sum exceeds 255 (R106). -/
def carryFlag (a b : Byte) : Byte := flagByte (255 < a.toNat + b.toNat)

/-- The flag of 8xy5 (`a` the minuend) and of 8xy7: strictly greater, so equal operands give 0 (R107, R109). -/
def greaterFlag (a b : Byte) : Byte := flagByte (b.toNat < a.toNat)

/-- The bit SHR shifts out: bit 0 (R108). -/
def lowBitFlag (a : Byte) : Byte := flagByte (a.getLsbD 0)

/-- The bit SHL shifts out: bit 7 (R110). -/
def highBitFlag (a : Byte) : Byte := flagByte (a.getLsbD 7)

end Sys2Proof.Machine
end

