-- ==== Sys2Proof/Config.lean ====
section
/-! DEFINITION. The fixed parameters of C8CORE (00_scope.md R4) and its one free value. -/

namespace Sys2Proof.Config

/-- MEM_SIZE (R4): the bytes of memory, at addresses 0x000..0xFFF. -/
def memSize : Nat := 0x1000

/-- PROG_BASE (R4): where the ROM image begins, and the reset value of PC. -/
def progBase : Nat := 0x200

/-- PROG_MAX (R4): the most bytes a ROM image contributes. -/
def progMax : Nat := 3584

/-- FONT_GLYPHS times FONT_STRIDE (R4): the bytes of the font region, which begins at 0x000. -/
def fontSize : Nat := 80

/-- The free value of the machine: `draw8()` (R6, R113). The `k`-th byte the environment supplies is `draw8 k`. It has no
body, so nothing can be proved of a draw but that it is a byte (D14; log 2). -/
opaque draw8 : Nat → Byte

end Sys2Proof.Config
end

