-- ==== Sys2Proof/Machine/State.lean ====
section
/-! DEFINITION. The state of C8CORE: every piece of state of 10_state.md R10 to R22 (complete by R23), the result output of
R33, and the model's own fields for what R24 calls parameters of the step relation. Plain data. -/

namespace Sys2Proof.Machine

/-- Memory as the list of the bytes that differ from what an unlisted address reads as (`resetByte`), in one canonical form
(`Memory.wf`). -/
abbrev Memory := List Host.Cell

/-- The framebuffer: 32 rows of 64 pixels, `true` on (R18). -/
abbrev Framebuffer := Vector (Vector Bool 64) 32

/-- FAULT_CAUSE, by the names of 60_exceptions.md R151; `FaultCause.code` gives the three-bit codes. -/
inductive FaultCause where
  /-- code 0: the value while `FAULTED = 0` -/
  | none
  /-- code 1: a fetch with `PC > 0xFFE` -/
  | fetchOutOfRange
  /-- code 2: DRW, LD B, LD [I] or LD Vx,[I] reaching above 0xFFF -/
  | memOutOfRange
  /-- code 3: CALL with `SP >= 15` -/
  | stackOverflow
  /-- code 4: RET with `SP = 0` -/
  | stackUnderflow
  /-- code 5: SKP or SKNP with `V[x] > 15` -/
  | keyIndexOutOfRange
  deriving DecidableEq, Repr

/-- The result of a CPU_TICK (R33). -/
inductive TickResult where
  | ok
  | unsupported (op : Word)
  | idle
  | fault (cause : FaultCause)
  | halted
  deriving DecidableEq, Repr

/-- The parameter I_ADD_MODULUS of `ADD I,Vx` (R4, R121): the default, or the one alternative. -/
inductive IAddModulus where
  /-- 65535, the default -/
  | m65535
  /-- 65536 -/
  | m65536
  deriving DecidableEq, Repr

/-- The arguments of a launch, that is of RESET (R4, R24, R180): the ROM image, the font table and the modulus of
`ADD I,Vx`. -/
structure Launch where
  rom : List Byte
  font : Vector Byte 80
  iAddModulus : IAddModulus
  deriving DecidableEq, Repr

/-- The events the host can issue (R30). -/
inductive Event where
  | reset (launch : Launch)
  | cpuTick
  | timerTick
  | keySet (k : Fin 16) (pressed : Bool)
  | keyPress (k : Fin 16)
  deriving DecidableEq, Repr

/-- The execution modes (R34). -/
inductive Mode where
  | running
  | waiting
  | faulted
  deriving DecidableEq, Repr

/-- The state of the machine. The fields from `v` to `faultPc` are the spec's state (R23); `tickResult` is the output of R33;
the last three are the model's own. -/
structure State where
  /-- V[0]..V[15] (R10); V[15] is the flag register VF (R11) -/
  v : Vector Byte 16
  /-- PC (R12) -/
  pc : Word
  /-- I (R13) -/
  i : Word
  /-- SP (R14) -/
  sp : Byte
  /-- STACK[0]..STACK[15] (R15) -/
  stack : Vector Word 16
  /-- WAIT (R16): `true` is WAITING_FOR_KEY -/
  wait : Bool
  /-- WAIT_REG (R16) -/
  waitReg : RegIndex
  /-- MEM (R17) -/
  mem : Memory
  /-- FB (R18) -/
  fb : Framebuffer
  /-- DT (R19) -/
  dt : Byte
  /-- ST (R19) -/
  st : Byte
  /-- KEYS[0]..KEYS[15] (R21): `true` is pressed -/
  keys : Vector Bool 16
  /-- FAULTED (R22) -/
  faulted : Bool
  /-- FAULT_CAUSE (R22) -/
  faultCause : FaultCause
  /-- FAULT_OP (R22) -/
  faultOp : Word
  /-- FAULT_ADDR (R22) -/
  faultAddr : Word
  /-- FAULT_PC (R22) -/
  faultPc : Word
  /-- TICK_RESULT (R32, R33): the result of the most recent CPU_TICK, `none` when there has been none since RESET (log 6) -/
  tickResult : Option TickResult
  /-- The model's own: I_ADD_MODULUS (R4), an argument of the launch (log 3) -/
  iAddModulus : IAddModulus
  /-- The model's own: how many bytes the environment has drawn (R113); the next is `Config.draw8 draws` (log 2) -/
  draws : Nat
  /-- The model's own: the events the host issues next, oldest first (R30, R31; log 1) -/
  events : List Event
  deriving DecidableEq, Repr

/-- The machine right after RESET with the empty ROM, the default font and the default modulus (70_reset_and_hazards.md R180,
R181): memory lists nothing, and no event is pending. -/
def State.reset : State where
  v := Vector.replicate 16 0x00
  pc := 0x0200
  i := 0x0000
  sp := 0x00
  stack := Vector.replicate 16 0x0000
  wait := false
  waitReg := 0
  mem := []
  fb := Vector.replicate 32 (Vector.replicate 64 false)
  dt := 0x00
  st := 0x00
  keys := Vector.replicate 16 false
  faulted := false
  faultCause := .none
  faultOp := 0x0000
  faultAddr := 0x0000
  faultPc := 0x0000
  tickResult := none
  iAddModulus := .m65535
  draws := 0
  events := []

/-- Why the model stops. The spec's own faults (60_exceptions.md R150) are no stop: they are next states with FAULTED set. -/
inductive Fault where
  /-- Raised by RET with `SP > 15`: no STACK entry has that index (R15), and no state reachable from RESET has such an SP
  (R14). The spec gives this no effect. Safe: the model stops (log 7). -/
  | stackPointerOutOfRange
  deriving DecidableEq, Repr

/-- Why the model gives no meaning. -/
inductive Refusal where
  /-- Raised by `exec` for an instruction that has no meaning yet; no arm of `exec` uses it. Safe: the model stops. -/
  | notModelled (mnemonic : String)
  deriving DecidableEq, Repr

/-- What executing an instruction or performing an event gives. -/
abbrev Result := Host.Outcome State Fault Refusal

end Sys2Proof.Machine
end

