-- ==== Sys2Proof/Machine/Memory.lean ====
section
/-! DEFINITION. The 4096 bytes of memory (20_memory.md R40 to R50): what unlisted addresses read as, reading, writing, and the
load operation of RESET (R46). -/

namespace Sys2Proof.Machine

/-- The default FONT, one row of five bytes per glyph 0..F (R47; its bytes are general knowledge, GK1; log 4). -/
def defaultGlyphs : List (List Byte) :=
  [ [0xF0, 0x90, 0x90, 0x90, 0xF0],
    [0x20, 0x60, 0x20, 0x20, 0x70],
    [0xF0, 0x10, 0xF0, 0x80, 0xF0],
    [0xF0, 0x10, 0xF0, 0x10, 0xF0],
    [0x90, 0x90, 0xF0, 0x10, 0x10],
    [0xF0, 0x80, 0xF0, 0x10, 0xF0],
    [0xF0, 0x80, 0xF0, 0x90, 0xF0],
    [0xF0, 0x10, 0x20, 0x40, 0x40],
    [0xF0, 0x90, 0xF0, 0x90, 0xF0],
    [0xF0, 0x90, 0xF0, 0x10, 0xF0],
    [0xF0, 0x90, 0xF0, 0x90, 0x90],
    [0xE0, 0x90, 0xE0, 0x90, 0xE0],
    [0xF0, 0x80, 0x80, 0x80, 0xF0],
    [0xE0, 0x90, 0x90, 0x90, 0xE0],
    [0xF0, 0x80, 0xF0, 0x80, 0xF0],
    [0xF0, 0x80, 0xF0, 0x80, 0x80] ]

/-- The default FONT as its 80 bytes: glyph `g` at `5*g` (R47). -/
def defaultFont : Vector Byte 80 := ⟨defaultGlyphs.flatten.toArray, rfl⟩

/-- What an address not listed in a `Memory` reads as: the contents after RESET with the empty ROM and the default FONT
(R46): the font in 0x000..0x04F, zero everywhere else. -/
def resetByte (a : Nat) : Byte :=
  if h : a < 80 then defaultFont[a] else 0x00

/-- The byte at an address: `MEM[a]`. Reading has no side effect (R50). -/
def Memory.read : Memory → Nat → Byte
  | [], a => resetByte a
  | (k, b) :: rest, a => if k = a then b else Memory.read rest a

/-- Puts a cell before the first cell of a higher address. -/
def Memory.place (c : Host.Cell) : Memory → Memory
  | [] => [c]
  | d :: rest => if c.1 < d.1 then c :: d :: rest else d :: Memory.place c rest

/-- `MEM[a] <- v` (R43), keeping the canonical form: a byte equal to what the unlisted address reads as is not listed. -/
def Memory.write (m : Memory) (a : Nat) (v : Byte) : Memory :=
  let others := m.filter (fun c => c.1 != a)
  if v = resetByte a then others else Memory.place (a, v) others

/-- The canonical form: addresses strictly rising and inside the address space, and no cell equal to what its address reads
as when unlisted. -/
abbrev Memory.wf (m : Memory) : Prop :=
  m.Pairwise (fun c d => c.1 < d.1) ∧ ∀ c ∈ m, c.1 < Config.memSize ∧ c.2 ≠ resetByte c.1

/-- Writes bytes to rising addresses from `a`, in that order (the store loops of R123 and R124, the copy loops of R46). -/
def Memory.writeBytes (m : Memory) (a : Nat) : List Byte → Memory
  | [] => m
  | b :: rest => Memory.writeBytes (Memory.write m a b) (a + 1) rest

/-- Reads `n` bytes from rising addresses from `a` (the load loops of R125 and R133). -/
def Memory.readBytes (m : Memory) (a : Nat) : Nat → List Byte
  | 0 => []
  | n + 1 => Memory.read m a :: Memory.readBytes m (a + 1) n

/-- `MEM_LOAD(rom)` (R46): zero, then FONT from 0x000, then the first 3584 bytes of the ROM from 0x200; the rest of the ROM is
dropped. (The empty list stands for zero with the default font, which the font copy then replaces byte for byte.) -/
def memLoad (l : Launch) : Memory :=
  Memory.writeBytes (Memory.writeBytes [] 0x000 l.font.toList) Config.progBase (l.rom.take Config.progMax)

end Sys2Proof.Machine
end

