-- ==== Sys2Proof/Machine/Ops.lean ====
section
/-! DEFINITION. The named operations over registers, stack, memory, framebuffer, devices and the fault record, one home each:
every read and write of a field of State goes through one of them. Fault entry (60_exceptions.md R150) is ONE operation here,
`State.raiseFault`. -/

namespace Sys2Proof.Machine

/-! ## Registers -/

/-- `V[x]` (R6, R10). No register is hard-wired. -/
def State.reg (s : State) (x : RegIndex) : Byte := s.v[x.val]'x.isLt

/-- `V[x] <- b` -/
def State.writeReg (s : State) (x : RegIndex) (b : Byte) : State := { s with v := s.v.set x.val b x.isLt }

/-- The flag register VF is `V[15]` (R11). -/
def vf : RegIndex := 15

/-- Writes an instruction's result and then its flag, in that order, so that with `x = 15` the flag remains (R112). -/
def State.writeResultThenFlag (s : State) (x : RegIndex) (result flag : Byte) : State :=
  (s.writeReg x result).writeReg vf flag

/-- `V[k] <- b, V[k+1] <- ...` for rising indices (the loop of R125); indices above 15 name no register. -/
def writeRun (v : Vector Byte 16) (k : Nat) : List Byte → Vector Byte 16
  | [] => v
  | b :: rest => writeRun (v.setIfInBounds k b) (k + 1) rest

/-- Loads `V[0], V[1], ...` from a list of bytes. -/
def State.loadRegs (s : State) (bytes : List Byte) : State := { s with v := writeRun s.v 0 bytes }

/-- `V[0], ..., V[x]` in that order. -/
def State.regsUpTo (s : State) (x : RegIndex) : List Byte := s.v.toList.take (x.val + 1)

/-- `PC <- a` -/
def State.writePc (s : State) (a : Word) : State := { s with pc := a }

/-- `I <- a` -/
def State.writeI (s : State) (a : Word) : State := { s with i := a }

/-! ## Call stack (R14, R15) -/

/-- `SP <- SP + 1; STACK[SP] <- a`: the pointer first, so that entry 0 is never written (R83). -/
def State.push (s : State) (a : Word) : State :=
  { s with sp := s.sp + 1, stack := s.stack.setIfInBounds (s.sp + 1).toNat a }

/-- `STACK[SP]`, where SP names an entry of the sixteen. -/
def State.stackTop (s : State) : Option Word := s.stack[s.sp.toNat]?

/-- `SP <- SP - 1`; the entry stays as it was (R84). -/
def State.dropTop (s : State) : State := { s with sp := s.sp - 1 }

/-! ## Memory -/

/-- `MEM[a]` -/
def State.byteAt (s : State) (a : Nat) : Byte := Memory.read s.mem a

/-- `MEM[a], ..., MEM[a+n-1]` -/
def State.bytesAt (s : State) (a n : Nat) : List Byte := Memory.readBytes s.mem a n

/-- Stores bytes at rising addresses from `a`. -/
def State.storeBytes (s : State) (a : Nat) (bytes : List Byte) : State :=
  { s with mem := Memory.writeBytes s.mem a bytes }

/-! ## Framebuffer (R18, R130) -/

/-- `FB[r][c]` -/
def Framebuffer.pixel (fb : Framebuffer) (r : Fin 32) (c : Fin 64) : Bool := (fb[r.val]'r.isLt)[c.val]'c.isLt

/-- `FB[r][c] <- b` -/
def Framebuffer.setPixel (fb : Framebuffer) (r : Fin 32) (c : Fin 64) (b : Bool) : Framebuffer :=
  fb.set r.val ((fb[r.val]'r.isLt).set c.val b c.isLt) r.isLt

/-- The buffer with every pixel off (R131). -/
def Framebuffer.blank : Framebuffer := Vector.replicate 32 (Vector.replicate 64 false)

/-- The row a sprite row lands on: `y mod 32`, reduced when the pixel is placed (R130). -/
def rowOf (y : Nat) : Fin 32 := Fin.ofNat 32 y

/-- The column a sprite bit lands on: `x mod 64` (R130). -/
def colOf (x : Nat) : Fin 64 := Fin.ofNat 64 x

/-- One turn of the loop of `DrawRow` (R132): bit index `i` (0 the most significant) of the sprite byte `b`, XORed onto its
pixel; the collision bit records a pixel turned from on to off. -/
def drawBit (x0 y0 : Nat) (b : Byte) (acc : Framebuffer × Bool) (i : Nat) : Framebuffer × Bool :=
  let bit := b.getLsbD (7 - i)
  let new := (acc.1.pixel (rowOf y0) (colOf (x0 + i))) ^^ bit
  (acc.1.setPixel (rowOf y0) (colOf (x0 + i)) new, acc.2 || (bit && !new))

/-- `DrawRow(x0, y0, b)` (R132): the buffer after the eight bits, and the collision bit. -/
def drawRow (x0 y0 : Nat) (b : Byte) (fb : Framebuffer) : Framebuffer × Bool :=
  (List.range 8).foldl (drawBit x0 y0 b) (fb, false)

/-- The loop of Dxyn over the sprite rows from `y` on (R133): `y` is not reduced here; the collision bits are ORed. -/
def drawRows (x0 : Nat) (y : Nat) (rows : List Byte) (fb : Framebuffer) : Framebuffer × Bool :=
  match rows with
  | [] => (fb, false)
  | b :: rest =>
    let first := drawRow x0 y b fb
    let others := drawRows x0 (y + 1) rest first.1
    (others.1, first.2 || others.2)

/-- `FB[r][c]`, the read port of the host as well (60_exceptions.md R172). -/
def State.pixel (s : State) (r : Fin 32) (c : Fin 64) : Bool := s.fb.pixel r c

/-- Replaces the framebuffer. -/
def State.writeFb (s : State) (fb : Framebuffer) : State := { s with fb := fb }

/-! ## Timers, keys, wait -/

/-- `DT <- b` -/
def State.writeDT (s : State) (b : Byte) : State := { s with dt := b }

/-- `ST <- b` -/
def State.writeST (s : State) (b : Byte) : State := { s with st := b }

/-- `KEYS[k]` -/
def State.key (s : State) (k : Fin 16) : Bool := s.keys[k.val]'k.isLt

/-- `KEYS[k] <- b` -/
def State.writeKey (s : State) (k : Fin 16) (b : Bool) : State := { s with keys := s.keys.set k.val b k.isLt }

/-- `WAIT_REG <- x; WAIT <- 1` (R143) -/
def State.enterWait (s : State) (x : RegIndex) : State := { s with waitReg := x, wait := true }

/-- `WAIT <- 0`; WAIT_REG keeps its value (R16). -/
def State.leaveWait (s : State) : State := { s with wait := false }

/-! ## The free value -/

/-- `draw8()` at this state: the next byte the environment supplies (R113). -/
def State.nextDraw (s : State) : Byte := Config.draw8 s.draws

/-- The draw is consumed: the next one is another free value. -/
def State.countDraw (s : State) : State := { s with draws := s.draws + 1 }

/-! ## Results and faults -/

/-- The result output of a CPU_TICK (R33). -/
def State.setTickResult (s : State) (r : TickResult) : State := { s with tickResult := some r }

/-- Replaces the list of pending events. -/
def State.withEvents (s : State) (es : List Event) : State := { s with events := es }

/-- The three-bit code of a fault cause (R151). -/
def FaultCause.code : FaultCause → BitVec 3
  | .none => 0
  | .fetchOutOfRange => 1
  | .memOutOfRange => 2
  | .stackOverflow => 3
  | .stackUnderflow => 4
  | .keyIndexOutOfRange => 5

/-- FAULT ENTRY, `raise <Fault>(info)` (R150): the fault record is written, the tick's result is FAULT(cause), and nothing
else changes; PC stays where it is and control goes nowhere (R158). `op` is the fetched word (0 for a fetch fault), `pc0` the
address it was fetched from. There is no return from it (R159): only RESET leaves FAULTED (R153, `resetMachine`). -/
def State.raiseFault (s : State) (cause : FaultCause) (info : Nat) (op pc0 : Word) : State :=
  { s with
    faulted := true
    faultCause := cause
    faultOp := op
    faultAddr := BitVec.ofNat 16 info
    faultPc := pc0
    tickResult := some (.fault cause) }

/-- `raise` inside an instruction: PC already holds `pc0 + 2` there, and keeps it (R61, R150); the fetched word is the
instruction's encoding (log 11). -/
def State.raiseIn (s : State) (op : Word) (cause : FaultCause) (info : Nat) : Result :=
  .next (s.raiseFault cause info op (s.pc - 2))

/-! ## RESET -/

/-- RESET(rom) (70_reset_and_hazards.md R180): every piece of the spec's state at its reset value and the ROM loaded, whatever
the state before; what the host issues next and the bytes the environment has drawn are not the machine's (log 1, log 2). -/
def resetMachine (l : Launch) (s : State) : State :=
  { State.reset with mem := memLoad l, iAddModulus := l.iAddModulus, draws := s.draws, events := s.events }

/-- The launch of a ROM with the default FONT and the default modulus (R4). -/
def Launch.ofRom (rom : List Byte) : Launch := ⟨rom, defaultFont, .m65535⟩

/-! ## Fetch and the advance of PC -/

/-- The instruction fetch `MemRead(PC, 2)` (20_memory.md R44, R45): the word, or the first instruction byte address above
0xFFF. -/
def State.fetch (s : State) : Except Nat Word :=
  if 0xFFF < s.pc.toNat then .error s.pc.toNat
  else if 0xFFF < s.pc.toNat + 1 then .error (s.pc.toNat + 1)
  else .ok (s.byteAt s.pc.toNat ++ s.byteAt (s.pc.toNat + 1))

/-- `PC <- PC + 2` before the instruction (30_encoding.md R61); the tick's result is OK unless what follows says otherwise
(R33). -/
def State.advance (s : State) : State := (s.writePc (s.pc + 2)).setTickResult .ok

/-! ## Outputs (R32, R34) -/

/-- SOUND_ACTIVE (R20) -/
def State.soundActive (s : State) : Bool := s.st != 0

/-- DELAY_ACTIVE (R20) -/
def State.delayActive (s : State) : Bool := s.dt != 0

/-- WAITING (R32) -/
def State.waitingOutput (s : State) : Bool := s.wait

/-- FAULT_CAUSE as the host reads it (R22, R32). -/
def State.faultCauseCode (s : State) : BitVec 3 := s.faultCause.code

/-- The mode (R34), decided by FAULTED and WAIT. -/
def State.mode (s : State) : Mode := if s.faulted then .faulted else if s.wait then .waiting else .running

end Sys2Proof.Machine
end

