-- ==== Sys2Proof/Machine/Operands.lean ====
section
/-! DEFINITION. The operand forms (30_encoding.md R65, 42_index_memory.md R126): a register's value as a number, the one
memory operand `I + offset` with its check, a register as a key index. Constants `kk` and addresses `nnn` are used as they
stand in the instruction, the latter widened with zeros. -/

namespace Sys2Proof.Machine

/-- `V[x]` as an unsigned number 0..255 (R5). -/
def State.regNat (s : State) (x : RegIndex) : Nat := (s.reg x).toNat

/-- I as an unsigned number; `I + k` is formed from it without reduction (R126). -/
def State.base (s : State) : Nat := s.i.toNat

/-- The first address above 0xFFF, in access order, among the `n` bytes from I (R126, R151): none when every byte exists. -/
def State.dataFault (s : State) (n : Nat) : Option Nat :=
  if 1 ≤ n ∧ 0xFFF < s.base + n - 1 then some (max s.base 0x1000) else none

/-- An instruction that reaches the `n` bytes from I: it raises MemOutOfRange, with nothing written, if one of them does not
exist, and has its effect `t` otherwise (R126, R155). -/
def State.withData (s : State) (op : Word) (n : Nat) (t : State) : Result :=
  match s.dataFault n with
  | some a => s.raiseIn op .memOutOfRange a
  | none => .next t

/-- `V[x]` as a key index: none above 15 (44_keys_timers.md R140). -/
def State.keyIndex (s : State) (x : RegIndex) : Option (Fin 16) :=
  if h : s.regNat x < 16 then some ⟨s.regNat x, h⟩ else none

/-- `skip` under a condition: one more `PC <- PC + 2` (40_control_flow.md R85). -/
def State.skipIf (s : State) (c : Bool) : State := if c then s.writePc (s.pc + 2) else s

end Sys2Proof.Machine
end

