-- ==== Sys2Proof/Machine/Alu.lean ====
section
/-! DEFINITION. Register loads, arithmetic, logic, shifts and the random byte (41_alu.md R100 to R113). Exact arithmetic on
unsigned numbers, narrowed modulo 256 at the end (R111); a flag is written after the result (R112). -/

namespace Sys2Proof.Machine

/-- 6xkk (R100): `V[x] <- kk`. -/
def execLdVxByte (x : RegIndex) (kk : Byte) (s : State) : Result := .next (s.writeReg x kk)

/-- 7xkk (R101): `V[x] <- (V[x] + kk) mod 256`; no flag. -/
def execAddVxByte (x : RegIndex) (kk : Byte) (s : State) : Result :=
  .next (s.writeReg x (BitVec.ofNat 8 (s.regNat x + kk.toNat)))

/-- 8xy0 (R102): `V[x] <- V[y]`. -/
def execLdVxVy (x y : RegIndex) (s : State) : Result := .next (s.writeReg x (s.reg y))

/-- 8xy1 (R103): `V[x] <- V[x] OR V[y]`; no flag. -/
def execOrVxVy (x y : RegIndex) (s : State) : Result := .next (s.writeReg x (s.reg x ||| s.reg y))

/-- 8xy2 (R104): `V[x] <- V[x] AND V[y]`; no flag. -/
def execAndVxVy (x y : RegIndex) (s : State) : Result := .next (s.writeReg x (s.reg x &&& s.reg y))

/-- 8xy3 (R105): `V[x] <- V[x] XOR V[y]`; no flag. -/
def execXorVxVy (x y : RegIndex) (s : State) : Result := .next (s.writeReg x (s.reg x ^^^ s.reg y))

/-- 8xy4 (R106): the sum modulo 256, VF the carry. -/
def execAddVxVy (x y : RegIndex) (s : State) : Result :=
  .next (s.writeResultThenFlag x (BitVec.ofNat 8 (s.regNat x + s.regNat y)) (carryFlag (s.reg x) (s.reg y)))

/-- `(a - b) mod 256` on bytes: for `a < b` it is `a - b + 256` (R111). -/
def wrappingSub (a b : Byte) : Byte := BitVec.ofNat 8 (a.toNat + 256 - b.toNat)

/-- 8xy5 (R107): `V[x] - V[y]`, VF whether `V[x] > V[y]`. -/
def execSubVxVy (x y : RegIndex) (s : State) : Result :=
  .next (s.writeResultThenFlag x (wrappingSub (s.reg x) (s.reg y)) (greaterFlag (s.reg x) (s.reg y)))

/-- 8xy7 (R109): `V[y] - V[x]`, VF whether `V[y] > V[x]`. -/
def execSubnVxVy (x y : RegIndex) (s : State) : Result :=
  .next (s.writeResultThenFlag x (wrappingSub (s.reg y) (s.reg x)) (greaterFlag (s.reg y) (s.reg x)))

/-- 8xy6 (R108): `V[x] div 2`, VF the old bit 0; `y` is ignored. -/
def execShrVx (x _y : RegIndex) (s : State) : Result :=
  .next (s.writeResultThenFlag x (BitVec.ofNat 8 (s.regNat x / 2)) (lowBitFlag (s.reg x)))

/-- 8xyE (R110): `(V[x] * 2) mod 256`, VF the old bit 7; `y` is ignored. -/
def execShlVx (x _y : RegIndex) (s : State) : Result :=
  .next (s.writeResultThenFlag x (BitVec.ofNat 8 (s.regNat x * 2)) (highBitFlag (s.reg x)))

/-- Cxkk (R113): a draw of the environment ANDed with `kk`; one draw is consumed. -/
def execRndVxByte (x : RegIndex) (kk : Byte) (s : State) : Result :=
  .next ((s.writeReg x (s.nextDraw &&& kk)).countDraw)

end Sys2Proof.Machine
end

