-- ==== Sys2Proof/Syntax.lean ====
section
/-! DEFINITION. The 34 instructions of C8CORE, one constructor per row of the opcode map (30_encoding.md R66), in its order,
and their assembler spellings (R69). -/

namespace Sys2Proof

/-- An instruction with its operand fields (R65): `x`, `y` register indices, `kk` a byte, `nnn` a twelve-bit address, `n` the
number of sprite rows (a nibble: see `Instr.wellFormed`). -/
inductive Instr where
  /-- 00E0 `CLS`: R131 -/
  | cls
  /-- 00EE `RET`: R84 -/
  | ret
  /-- 1nnn `JP addr`: R81 -/
  | jpAddr (nnn : Addr12)
  /-- 2nnn `CALL addr`: R83 -/
  | callAddr (nnn : Addr12)
  /-- 3xkk `SE Vx,byte`: R86 -/
  | seVxByte (x : RegIndex) (kk : Byte)
  /-- 4xkk `SNE Vx,byte`: R87 -/
  | sneVxByte (x : RegIndex) (kk : Byte)
  /-- 5xy0 `SE Vx,Vy`: R88 -/
  | seVxVy (x y : RegIndex)
  /-- 6xkk `LD Vx,byte`: R100 -/
  | ldVxByte (x : RegIndex) (kk : Byte)
  /-- 7xkk `ADD Vx,byte`: R101 -/
  | addVxByte (x : RegIndex) (kk : Byte)
  /-- 8xy0 `LD Vx,Vy`: R102 -/
  | ldVxVy (x y : RegIndex)
  /-- 8xy1 `OR Vx,Vy`: R103 -/
  | orVxVy (x y : RegIndex)
  /-- 8xy2 `AND Vx,Vy`: R104 -/
  | andVxVy (x y : RegIndex)
  /-- 8xy3 `XOR Vx,Vy`: R105 -/
  | xorVxVy (x y : RegIndex)
  /-- 8xy4 `ADD Vx,Vy`: R106 -/
  | addVxVy (x y : RegIndex)
  /-- 8xy5 `SUB Vx,Vy`: R107 -/
  | subVxVy (x y : RegIndex)
  /-- 8xy6 `SHR Vx`: R108; the field `y` decodes and has no effect -/
  | shrVx (x y : RegIndex)
  /-- 8xy7 `SUBN Vx,Vy`: R109 -/
  | subnVxVy (x y : RegIndex)
  /-- 8xyE `SHL Vx`: R110; the field `y` decodes and has no effect -/
  | shlVx (x y : RegIndex)
  /-- 9xy0 `SNE Vx,Vy`: R89 -/
  | sneVxVy (x y : RegIndex)
  /-- Annn `LD I,addr`: R120 -/
  | ldIAddr (nnn : Addr12)
  /-- Bnnn `JP V0,addr`: R82 -/
  | jpV0Addr (nnn : Addr12)
  /-- Cxkk `RND Vx,byte`: R113 -/
  | rndVxByte (x : RegIndex) (kk : Byte)
  /-- Dxyn `DRW Vx,Vy,nibble`: R133 -/
  | drwVxVyNibble (x y : RegIndex) (n : Nat)
  /-- Ex9E `SKP Vx`: R140 -/
  | skpVx (x : RegIndex)
  /-- ExA1 `SKNP Vx`: R141 -/
  | sknpVx (x : RegIndex)
  /-- Fx07 `LD Vx,DT`: R142 -/
  | ldVxDT (x : RegIndex)
  /-- Fx0A `LD Vx,K`: R143 -/
  | ldVxK (x : RegIndex)
  /-- Fx15 `LD DT,Vx`: R144 -/
  | ldDTVx (x : RegIndex)
  /-- Fx18 `LD ST,Vx`: R145 -/
  | ldSTVx (x : RegIndex)
  /-- Fx1E `ADD I,Vx`: R121 -/
  | addIVx (x : RegIndex)
  /-- Fx29 `LD F,Vx`: R122 -/
  | ldFVx (x : RegIndex)
  /-- Fx33 `LD B,Vx`: R123 -/
  | ldBVx (x : RegIndex)
  /-- Fx55 `LD [I],Vx`: R124 -/
  | ldMemIVx (x : RegIndex)
  /-- Fx65 `LD Vx,[I]`: R125 -/
  | ldVxMemI (x : RegIndex)
  deriving DecidableEq, Repr

/-- The mnemonics of the assembler (R69); several instructions share one, and the operands tell them apart. -/
inductive Mnemonic where
  | CLS | RET | JP | CALL | SE | SNE | LD | ADD | OR | AND | XOR | SUB | SHR | SUBN | SHL | RND | DRW | SKP | SKNP
  deriving DecidableEq, Repr

/-- The operands an assembler line can name (R69): a register, a constant, an address, a nibble, or a special operand. -/
inductive AsmOperand where
  | reg (x : RegIndex)
  | byte (kk : Byte)
  | addr (nnn : Addr12)
  | nibble (n : Nat)
  | I
  /-- `[I]` -/
  | atI
  | DT
  | ST
  | K
  | F
  | B
  deriving DecidableEq, Repr

/-- One assembler line: a mnemonic and its operands, destination first (R69). -/
structure AsmLine where
  mnemonic : Mnemonic
  operands : List AsmOperand
  deriving DecidableEq, Repr

end Sys2Proof
end

