-- ==== Sys2Proof/WellFormed.lean ====
section
/-! DEFINITION. Which terms of `Instr` are instructions of the machine: those whose operands fit their fields
(30_encoding.md R64, R65). -/

namespace Sys2Proof

/-- The operands fit their fields (R65). `x`, `y`, `kk` and `nnn` fit by their types; the row count `n` of Dxyn is a nibble,
0..15. -/
def Instr.wellFormed : Instr → Bool
  | .drwVxVyNibble _ _ n => n < 16
  | .cls | .ret | .jpAddr _ | .callAddr _ | .seVxByte _ _ | .sneVxByte _ _ | .seVxVy _ _ | .ldVxByte _ _
  | .addVxByte _ _ | .ldVxVy _ _ | .orVxVy _ _ | .andVxVy _ _ | .xorVxVy _ _ | .addVxVy _ _ | .subVxVy _ _
  | .shrVx _ _ | .subnVxVy _ _ | .shlVx _ _ | .sneVxVy _ _ | .ldIAddr _ | .jpV0Addr _ | .rndVxByte _ _
  | .skpVx _ | .sknpVx _ | .ldVxDT _ | .ldVxK _ | .ldDTVx _ | .ldSTVx _ | .addIVx _ | .ldFVx _ | .ldBVx _
  | .ldMemIVx _ | .ldVxMemI _ => true

end Sys2Proof
end

