-- ==== Sys2Proof/Decode.lean ====
section
/-! DEFINITION. Decoding a word by the opcode map (30_encoding.md R62 to R67), rejecting every other word by name, and the
encoder from the same formats (R64). -/

namespace Sys2Proof

/-! ## Fields (R7) -/

/-- `x = op[11:8]` -/
def fieldX (op : Word) : RegIndex := (op.extractLsb' 8 4).toFin

/-- `y = op[7:4]` -/
def fieldY (op : Word) : RegIndex := (op.extractLsb' 4 4).toFin

/-- `n = op[3:0]` -/
def fieldN (op : Word) : Nat := (op.extractLsb' 0 4).toNat

/-- `kk = op[7:0]` -/
def fieldKK (op : Word) : Byte := op.extractLsb' 0 8

/-- `nnn = op[11:0]` -/
def fieldNNN (op : Word) : Addr12 := op.extractLsb' 0 12

/-! ## The opcode map (R66) -/

/-- One row of the opcode map: the word `op` is the row's instruction when `op AND mask = pattern` (R62, R66). -/
structure OpcodeRow where
  mask : Word
  pattern : Word
  build : Word → Instr

/-- The row's test (R62). -/
def OpcodeRow.accepts (r : OpcodeRow) (op : Word) : Bool := op &&& r.mask == r.pattern

/-- Rows 1 to 9 of R66. -/
def rowsControl : List OpcodeRow :=
  [ ⟨0xFFFF, 0x00E0, fun _ => .cls⟩,
    ⟨0xFFFF, 0x00EE, fun _ => .ret⟩,
    ⟨0xF000, 0x1000, fun op => .jpAddr (fieldNNN op)⟩,
    ⟨0xF000, 0x2000, fun op => .callAddr (fieldNNN op)⟩,
    ⟨0xF000, 0x3000, fun op => .seVxByte (fieldX op) (fieldKK op)⟩,
    ⟨0xF000, 0x4000, fun op => .sneVxByte (fieldX op) (fieldKK op)⟩,
    ⟨0xF00F, 0x5000, fun op => .seVxVy (fieldX op) (fieldY op)⟩,
    ⟨0xF000, 0x6000, fun op => .ldVxByte (fieldX op) (fieldKK op)⟩,
    ⟨0xF000, 0x7000, fun op => .addVxByte (fieldX op) (fieldKK op)⟩ ]

/-- Rows 10 to 18 of R66: family 8. -/
def rowsFamily8 : List OpcodeRow :=
  [ ⟨0xF00F, 0x8000, fun op => .ldVxVy (fieldX op) (fieldY op)⟩,
    ⟨0xF00F, 0x8001, fun op => .orVxVy (fieldX op) (fieldY op)⟩,
    ⟨0xF00F, 0x8002, fun op => .andVxVy (fieldX op) (fieldY op)⟩,
    ⟨0xF00F, 0x8003, fun op => .xorVxVy (fieldX op) (fieldY op)⟩,
    ⟨0xF00F, 0x8004, fun op => .addVxVy (fieldX op) (fieldY op)⟩,
    ⟨0xF00F, 0x8005, fun op => .subVxVy (fieldX op) (fieldY op)⟩,
    ⟨0xF00F, 0x8006, fun op => .shrVx (fieldX op) (fieldY op)⟩,
    ⟨0xF00F, 0x8007, fun op => .subnVxVy (fieldX op) (fieldY op)⟩,
    ⟨0xF00F, 0x800E, fun op => .shlVx (fieldX op) (fieldY op)⟩ ]

/-- Rows 19 to 25 of R66. -/
def rowsMiddle : List OpcodeRow :=
  [ ⟨0xF00F, 0x9000, fun op => .sneVxVy (fieldX op) (fieldY op)⟩,
    ⟨0xF000, 0xA000, fun op => .ldIAddr (fieldNNN op)⟩,
    ⟨0xF000, 0xB000, fun op => .jpV0Addr (fieldNNN op)⟩,
    ⟨0xF000, 0xC000, fun op => .rndVxByte (fieldX op) (fieldKK op)⟩,
    ⟨0xF000, 0xD000, fun op => .drwVxVyNibble (fieldX op) (fieldY op) (fieldN op)⟩,
    ⟨0xF0FF, 0xE09E, fun op => .skpVx (fieldX op)⟩,
    ⟨0xF0FF, 0xE0A1, fun op => .sknpVx (fieldX op)⟩ ]

/-- Rows 26 to 34 of R66: family F. -/
def rowsFamilyF : List OpcodeRow :=
  [ ⟨0xF0FF, 0xF007, fun op => .ldVxDT (fieldX op)⟩,
    ⟨0xF0FF, 0xF00A, fun op => .ldVxK (fieldX op)⟩,
    ⟨0xF0FF, 0xF015, fun op => .ldDTVx (fieldX op)⟩,
    ⟨0xF0FF, 0xF018, fun op => .ldSTVx (fieldX op)⟩,
    ⟨0xF0FF, 0xF01E, fun op => .addIVx (fieldX op)⟩,
    ⟨0xF0FF, 0xF029, fun op => .ldFVx (fieldX op)⟩,
    ⟨0xF0FF, 0xF033, fun op => .ldBVx (fieldX op)⟩,
    ⟨0xF0FF, 0xF055, fun op => .ldMemIVx (fieldX op)⟩,
    ⟨0xF0FF, 0xF065, fun op => .ldVxMemI (fieldX op)⟩ ]

/-- The complete opcode map, its 34 rows in the order of R66. No word matches two rows (R63). -/
def opcodeTable : List OpcodeRow := rowsControl ++ rowsFamily8 ++ rowsMiddle ++ rowsFamilyF

/-! ## The decoder -/

/-- Why bytes are no instruction. -/
inductive DecodeReject where
  /-- The word matches no row of the opcode map: an unsupported instruction (R67). -/
  | unsupported (op : Word)
  /-- Fewer than two bytes: every instruction is exactly two bytes (R64). -/
  | truncated
  deriving DecidableEq, Repr

/-- The instruction a word stands for, by the opcode map (R62, R66), or its rejection (R67). -/
def decode (op : Word) : Except DecodeReject Instr :=
  match opcodeTable.find? (·.accepts op) with
  | some r => .ok (r.build op)
  | none => .error (.unsupported op)

/-- The word two consecutive bytes make: the byte at the lower address is the high byte (20_memory.md R45). -/
def wordOfBytes (hi lo : Byte) : Word := hi ++ lo

/-- Decoding a byte stream: the first instruction and the bytes after it. -/
def decodeBytes : List Byte → Except DecodeReject (Instr × List Byte)
  | hi :: lo :: rest =>
    match decode (wordOfBytes hi lo) with
    | .ok i => .ok (i, rest)
    | .error r => .error r
  | [_] => .error .truncated
  | [] => .error .truncated

/-! ## The encoder: the formats of R64, the fixed parts of R66 -/

/-- Format A: family, address. -/
def formatA (family : Nibble) (nnn : Addr12) : Word := family ++ nnn

/-- Format XK: family, register, byte. -/
def formatXK (family : Nibble) (x : RegIndex) (kk : Byte) : Word := family ++ (BitVec.ofFin x : Nibble) ++ kk

/-- Format XY (`low` the fixed sub-opcode) and format XYN (`low` the operand `n`): family, two registers, low nibble. -/
def formatXY (family : Nibble) (x y : RegIndex) (low : Nibble) : Word :=
  family ++ (BitVec.ofFin x : Nibble) ++ (BitVec.ofFin y : Nibble) ++ low

/-- Format XF: family, register, function byte. -/
def formatXF (family : Nibble) (x : RegIndex) (function : Byte) : Word := family ++ (BitVec.ofFin x : Nibble) ++ function

/-- The word of an instruction (R64, R66); of an ill-formed one, the word of its operands cut to their fields. -/
def encode : Instr → Word
  | .cls => 0x00E0
  | .ret => 0x00EE
  | .jpAddr nnn => formatA 0x1 nnn
  | .callAddr nnn => formatA 0x2 nnn
  | .seVxByte x kk => formatXK 0x3 x kk
  | .sneVxByte x kk => formatXK 0x4 x kk
  | .seVxVy x y => formatXY 0x5 x y 0x0
  | .ldVxByte x kk => formatXK 0x6 x kk
  | .addVxByte x kk => formatXK 0x7 x kk
  | .ldVxVy x y => formatXY 0x8 x y 0x0
  | .orVxVy x y => formatXY 0x8 x y 0x1
  | .andVxVy x y => formatXY 0x8 x y 0x2
  | .xorVxVy x y => formatXY 0x8 x y 0x3
  | .addVxVy x y => formatXY 0x8 x y 0x4
  | .subVxVy x y => formatXY 0x8 x y 0x5
  | .shrVx x y => formatXY 0x8 x y 0x6
  | .subnVxVy x y => formatXY 0x8 x y 0x7
  | .shlVx x y => formatXY 0x8 x y 0xE
  | .sneVxVy x y => formatXY 0x9 x y 0x0
  | .ldIAddr nnn => formatA 0xA nnn
  | .jpV0Addr nnn => formatA 0xB nnn
  | .rndVxByte x kk => formatXK 0xC x kk
  | .drwVxVyNibble x y n => formatXY 0xD x y (BitVec.ofNat 4 n)
  | .skpVx x => formatXF 0xE x 0x9E
  | .sknpVx x => formatXF 0xE x 0xA1
  | .ldVxDT x => formatXF 0xF x 0x07
  | .ldVxK x => formatXF 0xF x 0x0A
  | .ldDTVx x => formatXF 0xF x 0x15
  | .ldSTVx x => formatXF 0xF x 0x18
  | .addIVx x => formatXF 0xF x 0x1E
  | .ldFVx x => formatXF 0xF x 0x29
  | .ldBVx x => formatXF 0xF x 0x33
  | .ldMemIVx x => formatXF 0xF x 0x55
  | .ldVxMemI x => formatXF 0xF x 0x65

/-- The high byte of a word, which the hardware stores at the lower address (R45). -/
def highByte (op : Word) : Byte := op.extractLsb' 8 8

/-- The low byte of a word, which the hardware stores at the higher address (R45). -/
def lowByte (op : Word) : Byte := op.extractLsb' 0 8

/-- The two bytes of an instruction as memory holds them. -/
def encodeBytes (i : Instr) : List Byte := [highByte (encode i), lowByte (encode i)]

/-- The instruction word whose bits are `w`, numbered as spec/opcode_table.json numbers them: its rows have 16 bits, so bits
15..8 are the byte at the lower address. Bits of `w` from `nbits` up are 0. -/
def tableWord (nbits w : Nat) : Word := BitVec.ofNat 16 (w % 2 ^ nbits)

/-- What the decoder reads from the bytes of an instruction whose bits are `w` (see `tableWord`), laid out as the hardware
stores them. No instruction is longer than 16 bits (R64). -/
def decodeTableWord (nbits w : Nat) : Option Instr :=
  if nbits ≤ 16 then
    match decodeBytes [highByte (tableWord nbits w), lowByte (tableWord nbits w)] with
    | .ok (i, _) => some i
    | .error _ => none
  else none

end Sys2Proof
end

