-- ==== Sys2Proof/Machine/Control.lean ====
section
/-! DEFINITION. Control transfer (40_control_flow.md R80 to R89). PC already holds `pc0 + 2` when a meaning runs (R61). -/

namespace Sys2Proof.Machine

/-- 1nnn (R81): `PC <- zext_16(nnn)`. -/
def execJpAddr (nnn : Addr12) (s : State) : Result := .next (s.writePc (zext16 nnn))

/-- Bnnn (R82): `PC <- V[0] + nnn`, at most 0x10FE and not reduced. -/
def execJpV0Addr (nnn : Addr12) (s : State) : Result :=
  .next (s.writePc (BitVec.ofNat 16 (s.regNat 0 + nnn.toNat)))

/-- 2nnn (R83): the overflow check, then the push at the incremented SP, then the jump. -/
def execCallAddr (nnn : Addr12) (s : State) : Result :=
  if 15 ≤ s.sp.toNat then s.raiseIn (encode (.callAddr nnn)) .stackOverflow s.sp.toNat
  else .next ((s.push s.pc).writePc (zext16 nnn))

/-- 00EE (R84): the underflow check, then `PC <- STACK[SP]; SP <- SP - 1`. An SP above 15 names no entry (log 7). -/
def execRet (s : State) : Result :=
  if s.sp.toNat = 0 then s.raiseIn (encode .ret) .stackUnderflow s.sp.toNat
  else
    match s.stackTop with
    | some a => .next ((s.writePc a).dropTop)
    | none => .fault .stackPointerOutOfRange

/-- 3xkk (R86): skip if `V[x] = kk`. -/
def execSeVxByte (x : RegIndex) (kk : Byte) (s : State) : Result := .next (s.skipIf (s.reg x == kk))

/-- 4xkk (R87): skip if `V[x] != kk`. -/
def execSneVxByte (x : RegIndex) (kk : Byte) (s : State) : Result := .next (s.skipIf (s.reg x != kk))

/-- 5xy0 (R88): skip if `V[x] = V[y]`. -/
def execSeVxVy (x y : RegIndex) (s : State) : Result := .next (s.skipIf (s.reg x == s.reg y))

/-- 9xy0 (R89): skip if `V[x] != V[y]`. -/
def execSneVxVy (x y : RegIndex) (s : State) : Result := .next (s.skipIf (s.reg x != s.reg y))

end Sys2Proof.Machine
end

