-- ==== Sys2Proof/Machine/Display.lean ====
section
/-! DEFINITION. The display instructions (43_display.md R130 to R134). -/

namespace Sys2Proof.Machine

/-- 00E0 (R131): every pixel off. -/
def execCls (s : State) : Result := .next (s.writeFb Framebuffer.blank)

/-- Dxyn (R133): the `n` sprite bytes from I, drawn from column `V[x]` and row `V[y]` down; then VF the collision flag, also
when `n = 0`. -/
def execDrwVxVyNibble (x y : RegIndex) (n : Nat) (s : State) : Result :=
  let drawn := drawRows (s.regNat x) (s.regNat y) (s.bytesAt s.base n) s.fb
  s.withData (encode (.drwVxVyNibble x y n)) n ((s.writeFb drawn.1).writeReg vf (flagByte drawn.2))

end Sys2Proof.Machine
end

