-- ==== Sys2Proof/Machine/Index.lean ====
section
/-! DEFINITION. The index register and the memory transfers (42_index_memory.md R120 to R126). I is never changed by an
access, and every address is checked before the first write (R126). -/

namespace Sys2Proof.Machine

/-- Annn (R120): `I <- zext_16(nnn)`. -/
def execLdIAddr (nnn : Addr12) (s : State) : Result := .next (s.writeI (zext16 nnn))

/-- The modulus as a number (R121). -/
def IAddModulus.toNat : IAddModulus → Nat
  | .m65535 => 65535
  | .m65536 => 65536

/-- Fx1E (R121): `I <- (I + V[x]) mod I_ADD_MODULUS`; VF is not written. -/
def execAddIVx (x : RegIndex) (s : State) : Result :=
  .next (s.writeI (BitVec.ofNat 16 ((s.base + s.regNat x) % s.iAddModulus.toNat)))

/-- Fx29 (R122): `I <- V[x] * 5`, the whole byte, not masked. -/
def execLdFVx (x : RegIndex) (s : State) : Result := .next (s.writeI (BitVec.ofNat 16 (s.regNat x * 5)))

/-- The hundreds, tens and units digits of a byte (R123). -/
def decimalDigits (v : Nat) : List Byte :=
  [BitVec.ofNat 8 (v / 100), BitVec.ofNat 8 (v / 10 % 10), BitVec.ofNat 8 (v % 10)]

/-- Fx33 (R123): the digits of `V[x]` to `MEM[I], MEM[I+1], MEM[I+2]`. -/
def execLdBVx (x : RegIndex) (s : State) : Result :=
  s.withData (encode (.ldBVx x)) 3 (s.storeBytes s.base (decimalDigits (s.regNat x)))

/-- Fx55 (R124): `V[0]..V[x]` to `MEM[I]..MEM[I+x]`. -/
def execLdMemIVx (x : RegIndex) (s : State) : Result :=
  s.withData (encode (.ldMemIVx x)) (x.val + 1) (s.storeBytes s.base (s.regsUpTo x))

/-- Fx65 (R125): `MEM[I]..MEM[I+x]` to `V[0]..V[x]`. -/
def execLdVxMemI (x : RegIndex) (s : State) : Result :=
  s.withData (encode (.ldVxMemI x)) (x.val + 1) (s.loadRegs (s.bytesAt s.base (x.val + 1)))

end Sys2Proof.Machine
end

