-- ==== Sys2Proof/Machine/KeysTimers.lean ====
section
/-! DEFINITION. The key and timer instructions (44_keys_timers.md R140 to R145). -/

namespace Sys2Proof.Machine

/-- Ex9E (R140): skip if key `V[x]` is pressed; an index above 15 raises KeyIndexOutOfRange. -/
def execSkpVx (x : RegIndex) (s : State) : Result :=
  match s.keyIndex x with
  | some k => .next (s.skipIf (s.key k))
  | none => s.raiseIn (encode (.skpVx x)) .keyIndexOutOfRange (s.regNat x)

/-- ExA1 (R141): skip if key `V[x]` is not pressed. -/
def execSknpVx (x : RegIndex) (s : State) : Result :=
  match s.keyIndex x with
  | some k => .next (s.skipIf (!s.key k))
  | none => s.raiseIn (encode (.sknpVx x)) .keyIndexOutOfRange (s.regNat x)

/-- Fx07 (R142): `V[x] <- DT`. -/
def execLdVxDT (x : RegIndex) (s : State) : Result := .next (s.writeReg x s.dt)

/-- Fx0A (R143): `WAIT_REG <- x; WAIT <- 1`; the latch is not looked at. -/
def execLdVxK (x : RegIndex) (s : State) : Result := .next (s.enterWait x)

/-- Fx15 (R144): `DT <- V[x]`. -/
def execLdDTVx (x : RegIndex) (s : State) : Result := .next (s.writeDT (s.reg x))

/-- Fx18 (R145): `ST <- V[x]`. -/
def execLdSTVx (x : RegIndex) (s : State) : Result := .next (s.writeST (s.reg x))

end Sys2Proof.Machine
end

