-- ==== Sys2Proof/Machine/Cycle.lean ====
section
/-! DEFINITION. The instruction cycle of a CPU_TICK (30_encoding.md R60, R61), the other events (60_exceptions.md R165 to
R169, 70_reset_and_hazards.md R180), and which event comes next (10_state.md R30, R31). -/

namespace Sys2Proof.Machine

/-- A CPU_TICK in RUNNING mode (R61): fetch, advance PC, decode, and the one instruction, or the report of an unsupported
word (R156). A fetch fault comes before everything (R154) and leaves PC (R150). -/
def runInstruction (s : State) : Result :=
  match s.fetch with
  | .error a => .next (s.raiseFault .fetchOutOfRange a 0x0000 s.pc)
  | .ok op =>
    match decode op with
    | .ok i => exec i s.advance
    | .error _ => .next (s.advance.setTickResult (.unsupported op))

/-- CPU_TICK with its gating (R60): HALTED when faulted, IDLE when waiting, and then no state changes. -/
def cpuTick (s : State) : Result :=
  if s.faulted then .next (s.setTickResult .halted)
  else if s.wait then .next (s.setTickResult .idle)
  else runInstruction s

/-- A timer counter after a tick: it saturates at zero (R165). -/
def countDown (b : Byte) : Byte := if 0 < b.toNat then b - 1 else b

/-- TIMER_TICK (R165); ignored when faulted (R153). -/
def timerTick (s : State) : State :=
  if s.faulted then s else (s.writeDT (countDown s.dt)).writeST (countDown s.st)

/-- KEY_SET(k, b) (R168); ignored when faulted. It does not end a wait. -/
def keySet (k : Fin 16) (pressed : Bool) (s : State) : State := if s.faulted then s else s.writeKey k pressed

/-- KEY_PRESS(k) (R169): only a waiting machine takes it; the latch is not touched. -/
def keyPress (k : Fin 16) (s : State) : State :=
  if !s.faulted && s.wait then (s.writeReg s.waitReg (BitVec.ofNat 8 k.val)).leaveWait else s

/-- One event (R30). -/
def perform (e : Event) (s : State) : Result :=
  match e with
  | .reset l => .next (resetMachine l s)
  | .cpuTick => cpuTick s
  | .timerTick => .next (timerTick s)
  | .keySet k b => .next (keySet k b s)
  | .keyPress k => .next (keyPress k s)

/-- The event that comes next: the oldest the host has pending, or a CPU_TICK when it has none (log 1). -/
def State.dueEvent (s : State) : Event := s.events.headD .cpuTick

/-- The state with the due event taken off the pending ones. -/
def State.taken (s : State) : State := s.withEvents s.events.tail

/-- The machine performs the due event (R30, R31). -/
def nextEvent (s : State) : Result := perform s.dueEvent s.taken

/-- The state in which the next event is a CPU_TICK that fetches the word `op`: the word stands in memory at PC, high byte
first (R45). A PC that cannot be fetched from is put at the program base. -/
def placeFetchWord (s : State) (op : Word) : State :=
  let a : Word := if s.pc.toNat + 1 ≤ 0xFFF then s.pc else BitVec.ofNat 16 Config.progBase
  { s with
    pc := a
    mem := Memory.writeBytes s.mem a.toNat [highByte op, lowByte op]
    wait := false
    faulted := false
    events := [] }

end Sys2Proof.Machine
end

