-- ==== Sys2Proof/Machine/Step.lean ====
section
/-! DEFINITION. One step of the machine: one event (10_state.md R30, R31). -/

namespace Sys2Proof.Machine

/-- The machine performs its next event. -/
def step (s : State) : Host.Outcome State Fault Refusal := nextEvent s

/-- `s` with the instruction word of bits `w` (numbered as spec/opcode_table.json numbers them) stored where the next step
fetches, so that `step` fetches and runs exactly it (log 10). -/
def State.withFetchWord (s : State) (nbits w : Nat) : State := placeFetchWord s (tableWord nbits w)

end Sys2Proof.Machine
end

