-- ==== Sys2Proof/Machine/Assembly.lean ====
section
/-! DEFINITION. The assembler spellings of the instructions (30_encoding.md R69): destination first, the operand kinds
selecting the instruction among those that share a mnemonic. No behaviour of the machine depends on them. -/

namespace Sys2Proof

/-- The assembler line of an instruction (the table of R69). -/
def Instr.assembly : Instr → AsmLine
  | .cls => ⟨.CLS, []⟩
  | .ret => ⟨.RET, []⟩
  | .jpAddr nnn => ⟨.JP, [.addr nnn]⟩
  | .callAddr nnn => ⟨.CALL, [.addr nnn]⟩
  | .seVxByte x kk => ⟨.SE, [.reg x, .byte kk]⟩
  | .sneVxByte x kk => ⟨.SNE, [.reg x, .byte kk]⟩
  | .seVxVy x y => ⟨.SE, [.reg x, .reg y]⟩
  | .ldVxByte x kk => ⟨.LD, [.reg x, .byte kk]⟩
  | .addVxByte x kk => ⟨.ADD, [.reg x, .byte kk]⟩
  | .ldVxVy x y => ⟨.LD, [.reg x, .reg y]⟩
  | .orVxVy x y => ⟨.OR, [.reg x, .reg y]⟩
  | .andVxVy x y => ⟨.AND, [.reg x, .reg y]⟩
  | .xorVxVy x y => ⟨.XOR, [.reg x, .reg y]⟩
  | .addVxVy x y => ⟨.ADD, [.reg x, .reg y]⟩
  | .subVxVy x y => ⟨.SUB, [.reg x, .reg y]⟩
  | .shrVx x _ => ⟨.SHR, [.reg x]⟩
  | .subnVxVy x y => ⟨.SUBN, [.reg x, .reg y]⟩
  | .shlVx x _ => ⟨.SHL, [.reg x]⟩
  | .sneVxVy x y => ⟨.SNE, [.reg x, .reg y]⟩
  | .ldIAddr nnn => ⟨.LD, [.I, .addr nnn]⟩
  | .jpV0Addr nnn => ⟨.JP, [.reg 0, .addr nnn]⟩
  | .rndVxByte x kk => ⟨.RND, [.reg x, .byte kk]⟩
  | .drwVxVyNibble x y n => ⟨.DRW, [.reg x, .reg y, .nibble n]⟩
  | .skpVx x => ⟨.SKP, [.reg x]⟩
  | .sknpVx x => ⟨.SKNP, [.reg x]⟩
  | .ldVxDT x => ⟨.LD, [.reg x, .DT]⟩
  | .ldVxK x => ⟨.LD, [.reg x, .K]⟩
  | .ldDTVx x => ⟨.LD, [.DT, .reg x]⟩
  | .ldSTVx x => ⟨.LD, [.ST, .reg x]⟩
  | .addIVx x => ⟨.ADD, [.I, .reg x]⟩
  | .ldFVx x => ⟨.LD, [.F, .reg x]⟩
  | .ldBVx x => ⟨.LD, [.B, .reg x]⟩
  | .ldMemIVx x => ⟨.LD, [.atI, .reg x]⟩
  | .ldVxMemI x => ⟨.LD, [.reg x, .atI]⟩

/-- The instruction an assembler line names, none where R69 has no such line. The optional second operand of SHR and SHL is
accepted and ignored; the ignored `y` field is then 0, as it is without that operand (log 8). -/
def assemble : AsmLine → Option Instr
  | ⟨.CLS, []⟩ => some .cls
  | ⟨.RET, []⟩ => some .ret
  | ⟨.JP, [.addr nnn]⟩ => some (.jpAddr nnn)
  | ⟨.JP, [.reg x, .addr nnn]⟩ => if x = 0 then some (.jpV0Addr nnn) else none
  | ⟨.CALL, [.addr nnn]⟩ => some (.callAddr nnn)
  | ⟨.SE, [.reg x, .byte kk]⟩ => some (.seVxByte x kk)
  | ⟨.SE, [.reg x, .reg y]⟩ => some (.seVxVy x y)
  | ⟨.SNE, [.reg x, .byte kk]⟩ => some (.sneVxByte x kk)
  | ⟨.SNE, [.reg x, .reg y]⟩ => some (.sneVxVy x y)
  | ⟨.LD, [.reg x, .byte kk]⟩ => some (.ldVxByte x kk)
  | ⟨.LD, [.reg x, .reg y]⟩ => some (.ldVxVy x y)
  | ⟨.LD, [.I, .addr nnn]⟩ => some (.ldIAddr nnn)
  | ⟨.LD, [.reg x, .DT]⟩ => some (.ldVxDT x)
  | ⟨.LD, [.reg x, .K]⟩ => some (.ldVxK x)
  | ⟨.LD, [.DT, .reg x]⟩ => some (.ldDTVx x)
  | ⟨.LD, [.ST, .reg x]⟩ => some (.ldSTVx x)
  | ⟨.LD, [.F, .reg x]⟩ => some (.ldFVx x)
  | ⟨.LD, [.B, .reg x]⟩ => some (.ldBVx x)
  | ⟨.LD, [.atI, .reg x]⟩ => some (.ldMemIVx x)
  | ⟨.LD, [.reg x, .atI]⟩ => some (.ldVxMemI x)
  | ⟨.ADD, [.reg x, .byte kk]⟩ => some (.addVxByte x kk)
  | ⟨.ADD, [.reg x, .reg y]⟩ => some (.addVxVy x y)
  | ⟨.ADD, [.I, .reg x]⟩ => some (.addIVx x)
  | ⟨.OR, [.reg x, .reg y]⟩ => some (.orVxVy x y)
  | ⟨.AND, [.reg x, .reg y]⟩ => some (.andVxVy x y)
  | ⟨.XOR, [.reg x, .reg y]⟩ => some (.xorVxVy x y)
  | ⟨.SUB, [.reg x, .reg y]⟩ => some (.subVxVy x y)
  | ⟨.SUBN, [.reg x, .reg y]⟩ => some (.subnVxVy x y)
  | ⟨.SHR, [.reg x]⟩ => some (.shrVx x 0)
  | ⟨.SHR, [.reg x, .reg _]⟩ => some (.shrVx x 0)
  | ⟨.SHL, [.reg x]⟩ => some (.shlVx x 0)
  | ⟨.SHL, [.reg x, .reg _]⟩ => some (.shlVx x 0)
  | ⟨.RND, [.reg x, .byte kk]⟩ => some (.rndVxByte x kk)
  | ⟨.DRW, [.reg x, .reg y, .nibble n]⟩ => if n < 16 then some (.drwVxVyNibble x y n) else none
  | ⟨.SKP, [.reg x]⟩ => some (.skpVx x)
  | ⟨.SKNP, [.reg x]⟩ => some (.sknpVx x)
  | _ => none

end Sys2Proof
end

