-- ==== Sys2Proof/Safety.lean ====
section
/-! DEFINITION. The terms claims about C8CORE use: what may differ between two states, what a legal state is, what a fault
leaves, what a sprite lights, and what counts as a safe run. -/

namespace Sys2Proof.Machine

/-! ## Frames -/

/-- The parts of the state a claim can allow to change. Every field of State belongs to exactly one. -/
inductive Part where
  | reg (x : RegIndex)
  | pc
  | index
  | stackPointer
  | stackEntries
  | memory
  | display
  | delayTimer
  | soundTimer
  | keys
  | wait
  | waitReg
  | faultRecord
  | tickResult
  | modulus
  | draws
  | events
  deriving DecidableEq, Repr

/-- The part reads the same in both states. -/
def Part.Same : Part → State → State → Prop
  | .reg x, s, t => t.reg x = s.reg x
  | .pc, s, t => t.pc = s.pc
  | .index, s, t => t.i = s.i
  | .stackPointer, s, t => t.sp = s.sp
  | .stackEntries, s, t => t.stack = s.stack
  | .memory, s, t => ∀ a, t.byteAt a = s.byteAt a
  | .display, s, t => ∀ r c, t.pixel r c = s.pixel r c
  | .delayTimer, s, t => t.dt = s.dt
  | .soundTimer, s, t => t.st = s.st
  | .keys, s, t => ∀ k, t.key k = s.key k
  | .wait, s, t => t.wait = s.wait
  | .waitReg, s, t => t.waitReg = s.waitReg
  | .faultRecord, s, t => t.faulted = s.faulted ∧ t.faultCause = s.faultCause ∧ t.faultOp = s.faultOp
      ∧ t.faultAddr = s.faultAddr ∧ t.faultPc = s.faultPc
  | .tickResult, s, t => t.tickResult = s.tickResult
  | .modulus, s, t => t.iAddModulus = s.iAddModulus
  | .draws, s, t => t.draws = s.draws
  | .events, s, t => t.events = s.events

/-- From `s` to `t` nothing changes but the listed parts. -/
def OnlyChanges (parts : List Part) (s t : State) : Prop := ∀ p, p ∉ parts → p.Same s t

/-! ## Faults (60_exceptions.md R150) -/

/-- `t` is `s` after `raise <cause>(info)` of the word `op` fetched from `pc0`: the fault record and the result say so, and
nothing else differs. -/
def Raised (s t : State) (cause : FaultCause) (info : Nat) (op pc0 : Word) : Prop :=
  t.faulted = true ∧ t.faultCause = cause ∧ t.faultAddr.toNat = info ∧ t.faultOp = op ∧ t.faultPc = pc0
    ∧ t.tickResult = some (.fault cause) ∧ OnlyChanges [.faultRecord, .tickResult] s t

/-! ## Display -/

/-- The sprite of the `n` bytes from I, drawn from column `x0` and row `y0`, has a 1 bit on the pixel `(r, c)`: bit index `k`
(0 the most significant) of its `j`-th byte lands there (43_display.md R132, R133). -/
def SpriteLights (s : State) (x0 y0 n : Nat) (r : Fin 32) (c : Fin 64) : Prop :=
  ∃ j k, j < n ∧ k < 8 ∧ r.val = (y0 + j) % 32 ∧ c.val = (x0 + k) % 64 ∧ (s.byteAt (s.base + j)).getLsbD (7 - k) = true

/-! ## Legal states -/

/-- What the rules say of every state reachable from RESET. -/
structure State.Legal (s : State) : Prop where
  /-- `0 <= SP <= 15` (10_state.md R14) -/
  sp_le : s.sp.toNat ≤ 15
  /-- The largest reachable PC is 0x10FE (R12) -/
  pc_le : s.pc.toNat ≤ 0x10FE
  /-- A pushed value is at most 0x1000 (40_control_flow.md R83) -/
  stack_le : ∀ k : Fin 16, (s.stack[k.val]'k.isLt).toNat ≤ 0x1000
  /-- STACK[0] is dead (R15) -/
  stack_zero : s.stack[0] = 0x0000
  /-- With the default modulus I never exceeds 65534 (42_index_memory.md R121) -/
  index_le : s.iAddModulus = .m65535 → s.i.toNat ≤ 65534
  /-- Memory is in its canonical form -/
  mem_wf : Memory.wf s.mem
  /-- The fault record is clear until a fault (R22) -/
  record_clear : s.faulted = false →
    s.faultCause = .none ∧ s.faultOp = 0x0000 ∧ s.faultAddr = 0x0000 ∧ s.faultPc = 0x0000
  /-- A fault has a cause (60_exceptions.md R151) -/
  record_cause : s.faulted = true → s.faultCause ≠ .none
  /-- Only a running machine faults, so a faulted one is not waiting (R34, R151) -/
  not_both : ¬ (s.faulted = true ∧ s.wait = true)

/-! ## Runs -/

/-- No fatal fault has happened (60_exceptions.md R153). -/
def State.Safe (s : State) : Prop := s.faulted = false

/-- The next `k` steps run without a fatal fault and without a stop of the model. -/
def SafeFor : Nat → State → Prop
  | 0, s => s.Safe
  | k + 1, s => s.Safe ∧ match step s with
    | .next t => SafeFor k t
    | .fault _ => False
    | .refused _ => False

/-- The host keeps its duty to the key interface at this event: a KEY_PRESS only when the CPU is waiting (60_exceptions.md
R170, 70_reset_and_hazards.md R190(c)). A claim may assume it; the core does not check it. -/
def State.KeyDutyKept (s : State) : Prop := ∀ k, s.dueEvent = .keyPress k → s.mode = .waiting

/-- The model's own notion of an ended run (70_reset_and_hazards.md R186, D21; log 9): RUNNING, with PC at a `1nnn` whose target is its
own address. The hardware does not recognise it. A faulted machine is never at an end (R153). -/
def State.AtSelfJump (s : State) : Prop :=
  s.mode = .running ∧ ∃ nnn : Addr12, s.pc = zext16 nnn ∧ s.fetch = .ok (encode (.jpAddr nnn))

end Sys2Proof.Machine
end

