-- ==== Sys2Proof/Certificates/Slice0/Obligations.lean ====
section
/-! DEFINITION. The statements for the provers, each read from the rules of spec/. "Due", "pending" and "taken off" speak of
the list of host events a State holds (log 1). -/

open Sys2Proof Sys2Proof.Machine

/-- For every well-formed instruction, with every operand at every value its field admits, decoding its word gives the
instruction, and decoding its two bytes followed by any bytes gives the instruction and those bytes. [30_encoding.md
section 2 (R64, R65), 30_encoding.md section 3 (R66)] -/
def Obligations.DecodeOfEncodeGivesTheInstruction : Prop :=
  ∀ i : Instr, i.wellFormed = true →
    decode (encode i) = .ok i ∧ ∀ rest, decodeBytes (encodeBytes i ++ rest) = .ok (i, rest)

/-- If a word decodes to an instruction, that instruction is well-formed and its encoding is that very word, so no bit of
a defined word is dropped. [30_encoding.md section 2 (R64, R65), 30_encoding.md section 3 (R66)] -/
def Obligations.EncodeOfDecodeGivesTheWord : Prop :=
  ∀ (op : Word) (i : Instr), decode op = .ok i → encode i = op ∧ i.wellFormed = true

/-- For each of the 34 rows of the opcode map and every word op: if (op AND mask) = match, then decode gives that row's
instruction with x = op[11:8], y = op[7:4], n = op[3:0], kk = op[7:0], nnn = op[11:0]. [R66] -/
def Obligations.DecodeFollowsTheOpcodeMap : Prop :=
  ∀ op : Word,
    let x : RegIndex := Fin.ofNat 16 (op.toNat / 256)
    let y : RegIndex := Fin.ofNat 16 (op.toNat / 16)
    let n : Nat := op.toNat % 16
    let kk : Byte := BitVec.ofNat 8 op.toNat
    let nnn : Addr12 := BitVec.ofNat 12 op.toNat
    (op &&& 0xFFFF = 0x00E0 → decode op = .ok (.cls)) ∧
    (op &&& 0xFFFF = 0x00EE → decode op = .ok (.ret)) ∧
    (op &&& 0xF000 = 0x1000 → decode op = .ok (.jpAddr nnn)) ∧
    (op &&& 0xF000 = 0x2000 → decode op = .ok (.callAddr nnn)) ∧
    (op &&& 0xF000 = 0x3000 → decode op = .ok (.seVxByte x kk)) ∧
    (op &&& 0xF000 = 0x4000 → decode op = .ok (.sneVxByte x kk)) ∧
    (op &&& 0xF00F = 0x5000 → decode op = .ok (.seVxVy x y)) ∧
    (op &&& 0xF000 = 0x6000 → decode op = .ok (.ldVxByte x kk)) ∧
    (op &&& 0xF000 = 0x7000 → decode op = .ok (.addVxByte x kk)) ∧
    (op &&& 0xF00F = 0x8000 → decode op = .ok (.ldVxVy x y)) ∧
    (op &&& 0xF00F = 0x8001 → decode op = .ok (.orVxVy x y)) ∧
    (op &&& 0xF00F = 0x8002 → decode op = .ok (.andVxVy x y)) ∧
    (op &&& 0xF00F = 0x8003 → decode op = .ok (.xorVxVy x y)) ∧
    (op &&& 0xF00F = 0x8004 → decode op = .ok (.addVxVy x y)) ∧
    (op &&& 0xF00F = 0x8005 → decode op = .ok (.subVxVy x y)) ∧
    (op &&& 0xF00F = 0x8006 → decode op = .ok (.shrVx x y)) ∧
    (op &&& 0xF00F = 0x8007 → decode op = .ok (.subnVxVy x y)) ∧
    (op &&& 0xF00F = 0x800E → decode op = .ok (.shlVx x y)) ∧
    (op &&& 0xF00F = 0x9000 → decode op = .ok (.sneVxVy x y)) ∧
    (op &&& 0xF000 = 0xA000 → decode op = .ok (.ldIAddr nnn)) ∧
    (op &&& 0xF000 = 0xB000 → decode op = .ok (.jpV0Addr nnn)) ∧
    (op &&& 0xF000 = 0xC000 → decode op = .ok (.rndVxByte x kk)) ∧
    (op &&& 0xF000 = 0xD000 → decode op = .ok (.drwVxVyNibble x y n)) ∧
    (op &&& 0xF0FF = 0xE09E → decode op = .ok (.skpVx x)) ∧
    (op &&& 0xF0FF = 0xE0A1 → decode op = .ok (.sknpVx x)) ∧
    (op &&& 0xF0FF = 0xF007 → decode op = .ok (.ldVxDT x)) ∧
    (op &&& 0xF0FF = 0xF00A → decode op = .ok (.ldVxK x)) ∧
    (op &&& 0xF0FF = 0xF015 → decode op = .ok (.ldDTVx x)) ∧
    (op &&& 0xF0FF = 0xF018 → decode op = .ok (.ldSTVx x)) ∧
    (op &&& 0xF0FF = 0xF01E → decode op = .ok (.addIVx x)) ∧
    (op &&& 0xF0FF = 0xF029 → decode op = .ok (.ldFVx x)) ∧
    (op &&& 0xF0FF = 0xF033 → decode op = .ok (.ldBVx x)) ∧
    (op &&& 0xF0FF = 0xF055 → decode op = .ok (.ldMemIVx x)) ∧
    (op &&& 0xF0FF = 0xF065 → decode op = .ok (.ldVxMemI x))

/-- The opcode map has 34 rows, and for every word no two different rows accept it, so the order of the rows never decides
anything. [30_encoding.md section 1 (R63, whose sentence is marked derived)] -/
def Obligations.NoWordMatchesTwoRows : Prop :=
  opcodeTable.length = 34 ∧
    ∀ op : Word, opcodeTable.Pairwise (fun r q => ¬ (r.accepts op = true ∧ q.accepts op = true))

/-- A word is rejected as unsupported if and only if: family 0 and not 00E0 or 00EE; family 5 or 9 and low nibble not 0;
family 8 and low nibble 8, 9, A, B, C, D or F; family E and low byte not 9E or A1; family F and low byte not one of
the nine function bytes. [30_encoding.md section 4 Encodings that are not instructions (R67)] -/
def Obligations.UnsupportedWordsByFamily : Prop :=
  ∀ op : Word, decode op = .error (.unsupported op) ↔
    (op.toNat / 4096 = 0x0 ∧ op ≠ 0x00E0 ∧ op ≠ 0x00EE) ∨
    (op.toNat / 4096 = 0x5 ∧ op.toNat % 16 ≠ 0) ∨
    (op.toNat / 4096 = 0x8 ∧ op.toNat % 16 ∈ [0x8, 0x9, 0xA, 0xB, 0xC, 0xD, 0xF]) ∨
    (op.toNat / 4096 = 0x9 ∧ op.toNat % 16 ≠ 0) ∨
    (op.toNat / 4096 = 0xE ∧ op.toNat % 256 ∉ [0x9E, 0xA1]) ∨
    (op.toNat / 4096 = 0xF ∧ op.toNat % 256 ∉ [0x07, 0x0A, 0x15, 0x18, 0x1E, 0x29, 0x33, 0x55, 0x65])

/-- Eleven words, at least one of each family of instructions and one unsupported word, decode as the opcode map says.
[30_encoding.md section 3 (R66), 95_test_vectors.md L2] -/
def Obligations.SampleWordsDecodeAsWritten : Prop :=
  decode 0x00E0 = .ok .cls ∧ decode 0x2300 = .ok (.callAddr 0x300) ∧ decode 0x3A05 = .ok (.seVxByte 10 0x05) ∧
  decode 0x8AB6 = .ok (.shrVx 10 11) ∧ decode 0xB300 = .ok (.jpV0Addr 0x300) ∧ decode 0xC30F = .ok (.rndVxByte 3 0x0F) ∧
  decode 0xD125 = .ok (.drwVxVyNibble 1 2 5) ∧ decode 0xE3A1 = .ok (.sknpVx 3) ∧ decode 0xF30A = .ok (.ldVxK 3) ∧
  decode 0xFF65 = .ok (.ldVxMemI 15) ∧ decode 0x8018 = .error (.unsupported 0x8018)

/-- For every well-formed instruction but SHR and SHL, assembling its line gives it back; for SHR and SHL it gives the
instruction with y = 0, also when the optional second operand is written (that y is then 0 is the model's choice, log
8). [30_encoding.md section 5 Assembler syntax (R69)] -/
def Obligations.AssembleReadsBackEverySpelling : Prop :=
  (∀ i : Instr, i.wellFormed = true → (∀ x y, i ≠ .shrVx x y ∧ i ≠ .shlVx x y) → assemble i.assembly = some i) ∧
  (∀ x y, assemble (Instr.shrVx x y).assembly = some (.shrVx x 0)
    ∧ assemble ⟨.SHR, [.reg x, .reg y]⟩ = some (.shrVx x 0)) ∧
  (∀ x y, assemble (Instr.shlVx x y).assembly = some (.shlVx x 0)
    ∧ assemble ⟨.SHL, [.reg x, .reg y]⟩ = some (.shlVx x 0))

/-- When a CPU_TICK is due (log 1), the mode is RUNNING, PC is at most 0xFFE and the word {MEM[PC], MEM[PC+1]} decodes to
i, the step is exec of i at the state that differs from this one only in PC (2 more), the tick result (OK) and the
pending events (the due one taken off, log 1). [30_encoding.md section 1 (R61), 20_memory.md section 2 (R45),
10_state.md section 5 (R33)] -/
def Obligations.StepRunsTheDecodedInstruction : Prop :=
  ∀ (s : State) (i : Instr), s.dueEvent = .cpuTick → s.mode = .running → s.pc.toNat ≤ 0xFFE →
    decode (BitVec.ofNat 16 (256 * (s.byteAt s.pc.toNat).toNat + (s.byteAt (s.pc.toNat + 1)).toNat)) = .ok i →
    ∃ u, step s = exec i u ∧ u.pc = s.pc + 2 ∧ u.tickResult = some .ok ∧ u.events = s.events.tail
      ∧ OnlyChanges [.pc, .tickResult, .events] s u

/-- When a CPU_TICK is due (log 1), the mode is RUNNING, PC is at most 0xFFE and the fetched word op is no instruction,
the step answers a state with PC 2 more and result UNSUPPORTED(op), and the due event is taken off the pending ones
(log 1, the model's choice); everything else is as before, FAULTED and the fault record included. [60_exceptions.md
section 2 (R156), 10_state.md section 5 (R30, R31)] -/
def Obligations.StepReportsAnUnsupportedWord : Prop :=
  ∀ (s : State) (op : Word), s.dueEvent = .cpuTick → s.mode = .running → s.pc.toNat ≤ 0xFFE →
    op = BitVec.ofNat 16 (256 * (s.byteAt s.pc.toNat).toNat + (s.byteAt (s.pc.toNat + 1)).toNat) →
    (∀ i, decode op ≠ .ok i) →
    ∃ t, step s = .next t ∧ t.pc = s.pc + 2 ∧ t.tickResult = some (.unsupported op) ∧ t.events = s.events.tail
      ∧ OnlyChanges [.pc, .tickResult, .events] s t

/-- When a CPU_TICK is due (log 1), the mode is RUNNING and PC > 0xFFE, the step answers the state after raise
FetchOutOfRange: FAULT_CAUSE reads as code 1 (the spec's decision D7), FAULT_ADDR is PC if PC > 0xFFF and 0x1000
otherwise, FAULT_OP 0, FAULT_PC is PC; the due event is taken off the pending ones (log 1, the model's choice); PC and
everything else are unchanged. [20_memory.md section 2 (R44), 60_exceptions.md section 1, 92_eei_decisions.md D6, D7] -/
def Obligations.FetchAboveMemoryFaults : Prop :=
  ∀ s : State, s.dueEvent = .cpuTick → s.mode = .running → 0xFFE < s.pc.toNat →
    ∃ t, step s = .next t
      ∧ Raised s.taken t .fetchOutOfRange (if 0xFFF < s.pc.toNat then s.pc.toNat else 0x1000) 0x0000 s.pc
      ∧ t.faultCauseCode = 1

/-- When a CPU_TICK is due (log 1): if FAULTED = 1 the result is HALTED; else if WAIT = 1 the result is IDLE; in both
cases the due event is taken off the pending ones (log 1, the model's choice), and nothing else but the result output
differs, so no memory is written and no draw is consumed. [30_encoding.md section 1 (R60, the gated cases),
92_eei_decisions.md D6] -/
def Obligations.GatedTickChangesNoState : Prop :=
  ∀ s : State, s.dueEvent = .cpuTick →
    (s.faulted = true → ∃ t, step s = .next t ∧ t.tickResult = some .halted ∧ t.events = s.events.tail
      ∧ OnlyChanges [.tickResult, .events] s t) ∧
    (s.faulted = false → s.wait = true →
      ∃ t, step s = .next t ∧ t.tickResult = some .idle ∧ t.events = s.events.tail
      ∧ OnlyChanges [.tickResult, .events] s t)

/-- When TIMER_TICK is due (log 1) and the machine is not FAULTED, the step answers a state in which DT and ST are each
one less, or zero if they were zero; the due event is taken off the pending ones (log 1, the model's choice); nothing
else differs. [60_exceptions.md section 4 (R165), 10_state.md section 5 (R30, R31)] -/
def Obligations.TimerTickCountsDown : Prop :=
  ∀ s : State, s.dueEvent = .timerTick → s.faulted = false →
    ∃ t, step s = .next t
      ∧ (0 < s.dt.toNat → t.dt.toNat = s.dt.toNat - 1) ∧ (s.dt.toNat = 0 → t.dt = 0)
      ∧ (0 < s.st.toNat → t.st.toNat = s.st.toNat - 1) ∧ (s.st.toNat = 0 → t.st = 0)
      ∧ t.events = s.events.tail ∧ OnlyChanges [.delayTimer, .soundTimer, .events] s t

/-- When KEY_SET(k, b) is due (log 1) and the machine is not FAULTED, the step answers a state with KEYS[k] = b and every
other key, WAIT and everything else as before; the due event is taken off the pending ones (log 1, the model's
choice). [60_exceptions.md section 5 (R168), 10_state.md section 5 (R30, R31)] -/
def Obligations.KeySetWritesOneLatchBit : Prop :=
  ∀ (s : State) (k : Fin 16) (b : Bool), s.dueEvent = .keySet k b → s.faulted = false →
    ∃ t, step s = .next t ∧ t.key k = b ∧ (∀ j, j ≠ k → t.key j = s.key j)
      ∧ t.events = s.events.tail ∧ OnlyChanges [.keys, .events] s t

/-- When KEY_PRESS(k) is due (log 1): if FAULTED = 0 and WAIT = 1 the step answers a state with V[WAIT_REG] = k and WAIT =
0 and nothing else changed, the key latch included; otherwise nothing changes. In both cases the due event is taken
off the pending ones (log 1, the model's choice). [60_exceptions.md section 5 (R169), 92_eei_decisions.md D12] -/
def Obligations.KeyPressEndsTheWait : Prop :=
  ∀ (s : State) (k : Fin 16), s.dueEvent = .keyPress k →
    (s.faulted = false → s.wait = true →
      ∃ t, step s = .next t ∧ (t.reg s.waitReg).toNat = k.val ∧ t.wait = false ∧ t.events = s.events.tail
        ∧ OnlyChanges [.reg s.waitReg, .wait, .events] s t) ∧
    (s.faulted = true ∨ s.wait = false → ∃ t, step s = .next t ∧ t.events = s.events.tail ∧ OnlyChanges [.events] s t)

/-- When RESET with the launch l is due (log 1), in any state, the step answers a state in which address a < 80 reads as
byte a of the font, the addresses from 0x200 read as the ROM's bytes for the first min(length, 3584) of them, and
every other address reads as zero. [20_memory.md section 3 (R46), 92_eei_decisions.md D4] -/
def Obligations.ResetLoadsMemory : Prop :=
  ∀ (s : State) (l : Launch), s.dueEvent = .reset l →
    ∃ t, step s = .next t ∧ ∀ a, t.byteAt a =
      if h : a < 80 then l.font[a]
      else if 0x200 ≤ a ∧ a < 0x200 + min l.rom.length 3584 then l.rom.getD (a - 0x200) 0x00
      else 0x00

/-- When RESET with the launch l is due (log 1), in any state, FAULTED included, the step answers a state with PC = 0x200,
SP = 0, all pixels off, and (the spec's decisions D3, D6) V, I, STACK, WAIT, WAIT_REG, DT, ST, KEYS and the fault
record zero; no tick result (log 6); the launch's modulus (log 3). The count of the environment's draws is left as it
is (log 2, the model's choice), and the due event is taken off the pending ones (log 1, the model's choice), the later
ones staying. [70_reset_and_hazards.md section 1, 92_eei_decisions.md D3, D4, D6, 10_state.md section 5 (R30, R31),
41_alu.md section 6 (R113)] -/
def Obligations.ResetSetsEveryRegister : Prop :=
  ∀ (s : State) (l : Launch), s.dueEvent = .reset l →
    ∃ t, step s = .next t ∧ t.pc = 0x0200 ∧ t.sp = 0 ∧ (∀ r c, t.pixel r c = false)
      ∧ (∀ x, t.reg x = 0) ∧ t.i = 0 ∧ (∀ k : Fin 16, t.stack[k.val]'k.isLt = 0) ∧ t.wait = false ∧ t.waitReg = 0
      ∧ t.dt = 0 ∧ t.st = 0 ∧ (∀ k, t.key k = false)
      ∧ t.faulted = false ∧ t.faultCause.code = 0 ∧ t.faultOp = 0 ∧ t.faultAddr = 0 ∧ t.faultPc = 0
      ∧ t.tickResult = none ∧ t.iAddModulus = l.iAddModulus ∧ t.draws = s.draws ∧ t.events = s.events.tail

/-- State.reset has PC = 0x200, SP = 0, every pixel off, running, every other register zero by the spec's decision D3, the
fault record zero by its D6, no tick result (log 6), the default modulus (log 3), no event pending (log 1), and memory
reads as the default font below 80 (general knowledge, log 4) and as zero from there on. [70_reset_and_hazards.md
section 1 (the reset table), 20_memory.md section 3 (R47), 92_eei_decisions.md D3, D5, D6, D10] -/
def Obligations.ResetStateValues : Prop :=
  State.reset.pc = 0x0200 ∧ State.reset.sp = 0 ∧ (∀ r c, State.reset.pixel r c = false) ∧ State.reset.mode = .running ∧
  (∀ x, State.reset.reg x = 0) ∧ State.reset.i = 0 ∧ State.reset.dt = 0 ∧ State.reset.st = 0 ∧
  (∀ k, State.reset.key k = false) ∧ (∀ k : Fin 16, State.reset.stack[k.val]'k.isLt = 0) ∧
  State.reset.wait = false ∧ State.reset.waitReg = 0 ∧
  State.reset.faulted = false ∧ State.reset.faultCauseCode = 0 ∧ State.reset.faultOp = 0 ∧ State.reset.faultAddr = 0 ∧
  State.reset.faultPc = 0 ∧ State.reset.tickResult = none ∧ State.reset.iAddModulus = .m65535 ∧ State.reset.events = [] ∧
  (∀ a, State.reset.byteAt a = if h : a < 80 then defaultFont[a] else 0x00)

/-- If FAULTED = 1 and the due event (log 1) is not RESET, the step answers a state that differs only in the result output
and the pending events, the due one being taken off (log 1): registers, memory, display, timers, keys and the fault
record are frozen. [60_exceptions.md section 1, 92_eei_decisions.md D6] -/
def Obligations.FaultedIsTerminal : Prop :=
  ∀ s : State, s.faulted = true → (∀ l, s.dueEvent ≠ .reset l) →
    ∃ t, step s = .next t ∧ t.events = s.events.tail ∧ OnlyChanges [.tickResult, .events] s t

/-- If WAIT = 1 before a step and WAIT = 0 after it, the due event (log 1) was a KEY_PRESS or a RESET. [60_exceptions.md
section 6 (R176), 30_encoding.md section 1 (R60)] -/
def Obligations.OnlyKeyPressOrResetEndsAWait : Prop :=
  ∀ s t : State, s.wait = true → step s = .next t → t.wait = false →
    (∃ k, s.dueEvent = .keyPress k) ∨ (∃ l, s.dueEvent = .reset l)

/-- State.reset meets State.Legal: SP at most 15, PC at most 0x10FE, stack entries at most 0x1000 and entry 0 zero, I at
most 65534 with the default modulus, memory canonical, fault record clear, not faulted and waiting at once.
[70_reset_and_hazards.md section 1, 10_state.md sections 1 to 3] -/
def Obligations.ResetIsLegal : Prop :=
  State.reset.Legal

/-- From every legal state, whatever event is due and whatever word stands at PC, if the step answers a next state, that
state is legal: SP at most 15, PC at most 0x10FE, stack entries at most 0x1000 and entry 0 zero, I at most 65534 with
the default modulus, memory canonical, fault record clear until a fault, faulted excludes waiting. [10_state.md
section 1 (R12, R14, R15), 42_index_memory.md section 1 (R121), 10_state.md section 3 (R22), 40_control_flow.md
section 2 (R83, R84)] -/
def Obligations.EveryStepKeepsLegality : Prop :=
  ∀ s t : State, s.Legal → step s = .next t → t.Legal

/-- From every legal state, whatever event is due and whatever word stands at PC, the step answers a next state: no
reachable state meets the model's own stop (log 7), and no instruction is refused. [10_state.md section 5 (R33, R34),
10_state.md section 1 (R14), 93_implementation_defined.md section 1] -/
def Obligations.LegalStatesAlwaysStep : Prop :=
  ∀ s : State, s.Legal → ∃ t, step s = .next t

/-- For every instruction and state: if executing the instruction answers a state that is FAULTED from one that was not,
then only the fault record and the tick result changed, FAULT_OP is the instruction's word, FAULT_PC is PC - 2, and
the result is FAULT with the recorded cause. [60_exceptions.md section 1, 92_eei_decisions.md D6] -/
def Obligations.FaultingInstructionHasNoPartialEffect : Prop :=
  ∀ (i : Instr) (s t : State), exec i s = .next t → s.faulted = false → t.faulted = true →
    t.faultOp = encode i ∧ t.faultPc = s.pc - 2 ∧ t.tickResult = some (.fault t.faultCause)
      ∧ OnlyChanges [.faultRecord, .tickResult] s t

/-- When a CPU_TICK is due (log 1), the mode is RUNNING, PC is at most 0xFFE and the fetched word op decodes: if the step
answers a FAULTED state, then FAULT_OP = op, FAULT_PC is the address op was fetched from, PC is 2 more than that, and
nothing else changed but the record, the result and the pending events (log 1). [60_exceptions.md section 1,
92_eei_decisions.md D6, D7, D24] -/
def Obligations.FaultingStepRecordsTheOffender : Prop :=
  ∀ (s t : State) (op : Word) (i : Instr), s.dueEvent = .cpuTick → s.mode = .running → s.pc.toNat ≤ 0xFFE →
    op = BitVec.ofNat 16 (256 * (s.byteAt s.pc.toNat).toNat + (s.byteAt (s.pc.toNat + 1)).toNat) →
    decode op = .ok i → step s = .next t → t.faulted = true →
    t.faultOp = op ∧ t.faultPc = s.pc ∧ t.pc = s.pc + 2 ∧ t.faultCause ≠ .none
      ∧ t.tickResult = some (.fault t.faultCause) ∧ OnlyChanges [.faultRecord, .tickResult, .pc, .events] s t

/-- exec of JP addr answers a next state with PC = nnn zero-extended; no register, flag, memory byte, pixel or other state
differs. [R81] -/
def Obligations.JpGoesToTheAddress : Prop :=
  ∀ (nnn : Addr12) (s : State), ∃ t, exec (.jpAddr nnn) s = .next t ∧ t.pc.toNat = nnn.toNat ∧ OnlyChanges [.pc] s t

/-- exec of JP V0,addr answers a next state with PC = V[0] + nnn as numbers, without any reduction; nothing else differs.
[40_control_flow.md section 1 (R82), 92_eei_decisions.md D15] -/
def Obligations.JpV0AddsV0ToTheAddress : Prop :=
  ∀ (nnn : Addr12) (s : State),
    ∃ t, exec (.jpV0Addr nnn) s = .next t ∧ t.pc.toNat = (s.reg 0).toNat + nnn.toNat ∧ OnlyChanges [.pc] s t

/-- exec of CALL addr with SP < 15 answers a next state with SP one more, STACK at the new SP holding the PC it found
(already past the CALL), every other entry unchanged, PC = nnn, and nothing else changed. [40_control_flow.md section
2 (R83)] -/
def Obligations.CallPushesTheReturnAddress : Prop :=
  ∀ (nnn : Addr12) (s : State), s.sp.toNat < 15 →
    ∃ t, exec (.callAddr nnn) s = .next t ∧ t.sp.toNat = s.sp.toNat + 1
      ∧ t.stack[s.sp.toNat + 1]? = some s.pc ∧ (∀ k, k ≠ s.sp.toNat + 1 → t.stack[k]? = s.stack[k]?)
      ∧ t.pc.toNat = nnn.toNat ∧ OnlyChanges [.pc, .stackPointer, .stackEntries] s t

/-- exec of CALL addr with SP >= 15 answers the state after raise StackOverflow(SP): FAULT_CAUSE reads as code 3 (the
spec's decision D7), nothing is pushed, PC is not changed by the instruction. [40_control_flow.md section 2,
60_exceptions.md section 1, 92_eei_decisions.md D6, D7, D8] -/
def Obligations.CallOnAFullStackFaults : Prop :=
  ∀ (nnn : Addr12) (s : State), 15 ≤ s.sp.toNat →
    ∃ t, exec (.callAddr nnn) s = .next t
      ∧ Raised s t .stackOverflow s.sp.toNat (encode (.callAddr nnn)) (s.pc - 2)
      ∧ t.faultCauseCode = 3

/-- exec of RET with 1 <= SP <= 15 answers a next state with PC = STACK[SP], SP one less, the stack entries and everything
else unchanged. [40_control_flow.md section 2 (R84)] -/
def Obligations.RetPopsTheReturnAddress : Prop :=
  ∀ s : State, 1 ≤ s.sp.toNat → s.sp.toNat ≤ 15 →
    ∃ t, exec .ret s = .next t ∧ s.stack[s.sp.toNat]? = some t.pc ∧ t.sp.toNat = s.sp.toNat - 1
      ∧ OnlyChanges [.pc, .stackPointer] s t

/-- exec of RET with SP = 0 answers the state after raise StackUnderflow(0), with FAULT_CAUSE reading as code 4 (the
spec's decision D7); with SP > 15, which no reachable state has, it stops with the model's own fault
stackPointerOutOfRange (log 7). [40_control_flow.md section 2, 60_exceptions.md section 1, 92_eei_decisions.md D6, D7,
D9] -/
def Obligations.RetOnAnEmptyStackFaults : Prop :=
  ∀ s : State,
    (s.sp.toNat = 0 → ∃ t, exec .ret s = .next t
      ∧ Raised s t .stackUnderflow 0 (encode .ret) (s.pc - 2)
      ∧ t.faultCauseCode = 4) ∧
    (16 ≤ s.sp.toNat → exec .ret s = .fault .stackPointerOutOfRange)

/-- With no event pending (so that CPU_TICKs are due, log 1), the mode RUNNING, SP at most 14, the word at PC a CALL addr
and the word at addr 00EE, two steps answer a state with PC = the CALL's address + 2, SP unchanged, and only PC, the
stack entries and the tick result changed. [40_control_flow.md section 2 (R84, the source's property),
95_test_vectors.md E5] -/
def Obligations.CallThenRetReturns : Prop :=
  ∀ (s : State) (nnn : Addr12), s.events = [] → s.mode = .running → s.sp.toNat ≤ 14 →
    s.fetch = .ok (encode (.callAddr nnn)) → nnn.toNat ≤ 0xFFE →
    s.byteAt nnn.toNat = 0x00 → s.byteAt (nnn.toNat + 1) = 0xEE →
    ∃ u, Sys2Proof.core.run 2 s = .next u ∧ u.pc = s.pc + 2 ∧ u.sp = s.sp
      ∧ OnlyChanges [.pc, .stackEntries, .tickResult] s u

/-- exec of SE Vx,byte, SNE Vx,byte, SE Vx,Vy and SNE Vx,Vy each answers a next state in which PC is 2 more than found if
Vx = kk, Vx != kk, Vx = Vy, Vx != Vy respectively, and as found otherwise; nothing else differs. [R86, R87, R88, R89] -/
def Obligations.SkipsOnRegisterComparisons : Prop :=
  ∀ (x y : RegIndex) (kk : Byte) (s : State),
    (∃ t, exec (.seVxByte x kk) s = .next t ∧ t.pc = (if s.reg x = kk then s.pc + 2 else s.pc) ∧ OnlyChanges [.pc] s t) ∧
    (∃ t, exec (.sneVxByte x kk) s = .next t ∧ t.pc = (if s.reg x = kk then s.pc else s.pc + 2) ∧ OnlyChanges [.pc] s t) ∧
    (∃ t, exec (.seVxVy x y) s = .next t ∧ t.pc = (if s.reg x = s.reg y then s.pc + 2 else s.pc) ∧ OnlyChanges [.pc] s t) ∧
    (∃ t, exec (.sneVxVy x y) s = .next t ∧ t.pc = (if s.reg x = s.reg y then s.pc else s.pc + 2) ∧ OnlyChanges [.pc] s t)

/-- exec of LD Vx,byte answers a next state with Vx = kk, of LD Vx,Vy one with Vx = the old Vy; every other register, VF
included unless it is Vx, and everything else is unchanged. [R100, R102] -/
def Obligations.LoadsWriteOneRegister : Prop :=
  ∀ (x y : RegIndex) (kk : Byte) (s : State),
    (∃ t, exec (.ldVxByte x kk) s = .next t ∧ t.reg x = kk ∧ OnlyChanges [.reg x] s t) ∧
    (∃ t, exec (.ldVxVy x y) s = .next t ∧ t.reg x = s.reg y ∧ OnlyChanges [.reg x] s t)

/-- exec of ADD Vx,byte answers a next state with Vx = (old Vx + kk) mod 256; every other register, VF included unless it
is Vx, and everything else is unchanged. [R101] -/
def Obligations.AddByteWrapsAndSetsNoFlag : Prop :=
  ∀ (x : RegIndex) (kk : Byte) (s : State),
    ∃ t, exec (.addVxByte x kk) s = .next t ∧ (t.reg x).toNat = ((s.reg x).toNat + kk.toNat) % 256
      ∧ OnlyChanges [.reg x] s t

/-- exec of OR, AND and XOR Vx,Vy each answers a next state in which each of the eight bits of Vx is the or, and,
exclusive or of the old bits of Vx and Vy; everything else, VF included unless it is Vx, is unchanged. [R103, R104,
R105] -/
def Obligations.LogicIsBitwiseAndSetsNoFlag : Prop :=
  ∀ (x y : RegIndex) (s : State),
    (∃ t, exec (.orVxVy x y) s = .next t
      ∧ (∀ j, j < 8 → (t.reg x).getLsbD j = ((s.reg x).getLsbD j || (s.reg y).getLsbD j)) ∧ OnlyChanges [.reg x] s t) ∧
    (∃ t, exec (.andVxVy x y) s = .next t
      ∧ (∀ j, j < 8 → (t.reg x).getLsbD j = ((s.reg x).getLsbD j && (s.reg y).getLsbD j)) ∧ OnlyChanges [.reg x] s t) ∧
    (∃ t, exec (.xorVxVy x y) s = .next t
      ∧ (∀ j, j < 8 → (t.reg x).getLsbD j = ((s.reg x).getLsbD j ^^ (s.reg y).getLsbD j)) ∧ OnlyChanges [.reg x] s t)

/-- exec of ADD Vx,Vy answers a next state with VF = 1 if old Vx + old Vy > 255 and 0 otherwise, also when x or y is 15,
and Vx the sum mod 256 unless x = 15; everything else is unchanged. [R106] -/
def Obligations.AddSetsTheCarry : Prop :=
  ∀ (x y : RegIndex) (s : State),
    ∃ t, exec (.addVxVy x y) s = .next t
      ∧ t.reg 15 = (if 255 < (s.reg x).toNat + (s.reg y).toNat then 1 else 0)
      ∧ (x ≠ 15 → (t.reg x).toNat = ((s.reg x).toNat + (s.reg y).toNat) % 256)
      ∧ OnlyChanges [.reg x, .reg 15] s t

/-- exec of SUB Vx,Vy answers a next state with Vx = (Vx - Vy) mod 256 unless x = 15 and VF = 1 if Vx > Vy else 0; SUBN
the same with Vx and Vy exchanged; equal operands give 0 and VF = 0; everything else is unchanged. [R107, R109] -/
def Obligations.SubtractionsSetTheStrictFlag : Prop :=
  ∀ (x y : RegIndex) (s : State),
    (∃ t, exec (.subVxVy x y) s = .next t
      ∧ t.reg 15 = (if (s.reg y).toNat < (s.reg x).toNat then 1 else 0)
      ∧ (x ≠ 15 → ((t.reg x).toNat : Int) = (((s.reg x).toNat : Int) - (s.reg y).toNat) % 256)
      ∧ OnlyChanges [.reg x, .reg 15] s t) ∧
    (∃ t, exec (.subnVxVy x y) s = .next t
      ∧ t.reg 15 = (if (s.reg x).toNat < (s.reg y).toNat then 1 else 0)
      ∧ (x ≠ 15 → ((t.reg x).toNat : Int) = (((s.reg y).toNat : Int) - (s.reg x).toNat) % 256)
      ∧ OnlyChanges [.reg x, .reg 15] s t)

/-- exec of SHR answers a next state with Vx = old Vx div 2 unless x = 15 and VF = old bit 0 of Vx; SHL one with Vx = (old
Vx * 2) mod 256 unless x = 15 and VF = old bit 7; for every y, and Vy is not changed; everything else is unchanged.
[R108, R110] -/
def Obligations.ShiftsSetTheBitShiftedOut : Prop :=
  ∀ (x y : RegIndex) (s : State),
    (∃ t, exec (.shrVx x y) s = .next t
      ∧ (t.reg 15).toNat = (s.reg x).toNat % 2
      ∧ (x ≠ 15 → (t.reg x).toNat = (s.reg x).toNat / 2)
      ∧ OnlyChanges [.reg x, .reg 15] s t) ∧
    (∃ t, exec (.shlVx x y) s = .next t
      ∧ (t.reg 15).toNat = (s.reg x).toNat / 128
      ∧ (x ≠ 15 → (t.reg x).toNat = (s.reg x).toNat * 2 % 256)
      ∧ OnlyChanges [.reg x, .reg 15] s t)

/-- exec of RND answers a next state with Vx = draw AND kk for the free draw of this state, so that no bit outside kk is
set; exactly one draw is consumed; everything else is unchanged. It holds for every value of the draw counter and of
the draw. [41_alu.md section 6 (R113), 92_eei_decisions.md D14] -/
def Obligations.RndMasksAFreeDraw : Prop :=
  ∀ (x : RegIndex) (kk : Byte) (s : State),
    ∃ t, exec (.rndVxByte x kk) s = .next t ∧ t.reg x = Config.draw8 s.draws &&& kk
      ∧ (∀ j, kk.getLsbD j = false → (t.reg x).getLsbD j = false)
      ∧ t.draws = s.draws + 1 ∧ OnlyChanges [.reg x, .draws] s t

/-- exec of LD I,addr answers a next state with I = nnn, of LD F,Vx one with I = Vx * 5 for the whole byte Vx; memory is
not read for it, and nothing else changes. [R120, R122] -/
def Obligations.LoadIndexSetsI : Prop :=
  ∀ (nnn : Addr12) (x : RegIndex) (s : State),
    (∃ t, exec (.ldIAddr nnn) s = .next t ∧ t.i.toNat = nnn.toNat ∧ OnlyChanges [.index] s t) ∧
    (∃ t, exec (.ldFVx x) s = .next t ∧ t.i.toNat = (s.reg x).toNat * 5 ∧ OnlyChanges [.index] s t)

/-- exec of ADD I,Vx answers a next state with I = (I + Vx) mod 65535 with the default modulus and mod 65536 with the
alternative; VF and everything else is unchanged. [42_index_memory.md section 1 (R121), 92_eei_decisions.md D10] -/
def Obligations.AddToIndexIsModulo : Prop :=
  ∀ (x : RegIndex) (s : State),
    ∃ t, exec (.addIVx x) s = .next t
      ∧ (s.iAddModulus = .m65535 → t.i.toNat = (s.i.toNat + (s.reg x).toNat) % 65535)
      ∧ (s.iAddModulus = .m65536 → t.i.toNat = (s.i.toNat + (s.reg x).toNat) % 65536)
      ∧ OnlyChanges [.index] s t

/-- exec of LD B,Vx with I + 2 <= 0xFFF answers a next state in which I, I+1, I+2 hold the hundreds, tens and units digit
of Vx, every other byte reads as before and nothing else changed; with I + 2 > 0xFFF it answers the state after raise
MemOutOfRange(max(I, 0x1000)) (the spec's decisions D6, D24), with FAULT_CAUSE reading as code 2 (D7).
[42_index_memory.md section 2 (R123), 60_exceptions.md section 1, 92_eei_decisions.md D6, D7, D24] -/
def Obligations.StoreDecimalDigits : Prop :=
  ∀ (x : RegIndex) (s : State),
    (s.base + 2 ≤ 0xFFF → ∃ t, exec (.ldBVx x) s = .next t
      ∧ (t.byteAt s.base).toNat = (s.reg x).toNat / 100
      ∧ (t.byteAt (s.base + 1)).toNat = (s.reg x).toNat / 10 % 10
      ∧ (t.byteAt (s.base + 2)).toNat = (s.reg x).toNat % 10
      ∧ (∀ a, a ≠ s.base → a ≠ s.base + 1 → a ≠ s.base + 2 → t.byteAt a = s.byteAt a)
      ∧ OnlyChanges [.memory] s t) ∧
    (0xFFF < s.base + 2 → ∃ t, exec (.ldBVx x) s = .next t
      ∧ Raised s t .memOutOfRange (max s.base 0x1000) (encode (.ldBVx x)) (s.pc - 2)
      ∧ t.faultCauseCode = 2)

/-- exec of LD [I],Vx with I + x <= 0xFFF answers a next state in which I + j holds Vj for every j up to x, every other
byte reads as before and nothing else changed, I included; with I + x > 0xFFF it answers the state after raise
MemOutOfRange(max(I, 0x1000)) (the spec's decisions D6, D24), with FAULT_CAUSE reading as code 2 (D7).
[42_index_memory.md section 2 (R124), 60_exceptions.md section 1, 92_eei_decisions.md D6, D7, D24] -/
def Obligations.StoreRegisters : Prop :=
  ∀ (x : RegIndex) (s : State),
    (s.base + x.val ≤ 0xFFF → ∃ t, exec (.ldMemIVx x) s = .next t
      ∧ (∀ j : RegIndex, j ≤ x → t.byteAt (s.base + j.val) = s.reg j)
      ∧ (∀ a, (a < s.base ∨ s.base + x.val < a) → t.byteAt a = s.byteAt a)
      ∧ OnlyChanges [.memory] s t) ∧
    (0xFFF < s.base + x.val → ∃ t, exec (.ldMemIVx x) s = .next t
      ∧ Raised s t .memOutOfRange (max s.base 0x1000) (encode (.ldMemIVx x)) (s.pc - 2)
      ∧ t.faultCauseCode = 2)

/-- exec of LD Vx,[I] with I + x <= 0xFFF answers a next state in which Vj is the byte at I + j for every j up to x and
nothing else changed; with I + x > 0xFFF it answers the state after raise MemOutOfRange(max(I, 0x1000)) (the spec's
decisions D6, D24), with FAULT_CAUSE reading as code 2 (D7). [42_index_memory.md section 2 (R125), 60_exceptions.md
section 1, 92_eei_decisions.md D6, D7, D24] -/
def Obligations.LoadRegisters : Prop :=
  ∀ (x : RegIndex) (s : State),
    (s.base + x.val ≤ 0xFFF → ∃ t, exec (.ldVxMemI x) s = .next t
      ∧ (∀ j : RegIndex, j ≤ x → t.reg j = s.byteAt (s.base + j.val))
      ∧ OnlyChanges (((List.finRange 16).filter (· ≤ x)).map Part.reg) s t) ∧
    (0xFFF < s.base + x.val → ∃ t, exec (.ldVxMemI x) s = .next t
      ∧ Raised s t .memOutOfRange (max s.base 0x1000) (encode (.ldVxMemI x)) (s.pc - 2)
      ∧ t.faultCauseCode = 2)

/-- For every state and every number n of bytes, the check of the n bytes from I finds exactly the first address above
0xFFF among I, I+1, ..., I+n-1, and none when all exist. [42_index_memory.md section 0 (R126), 92_eei_decisions.md
D24] -/
def Obligations.ReportedAddressIsTheFirstOutOfRange : Prop :=
  ∀ (s : State) (n : Nat), s.dataFault n = ((List.range n).map (fun k => s.base + k)).find? (fun a => 0xFFF < a)

/-- If I + x <= 0xFFF and PC and PC + 1 lie in the stored range, then after LD [I],Vx the fetch reads the word made of the
two registers stored there, high byte first. [20_memory.md section 4 (R54)] -/
def Obligations.StoredBytesAreFetched : Prop :=
  ∀ (x j k : RegIndex) (s t : State), s.base + x.val ≤ 0xFFF → exec (.ldMemIVx x) s = .next t →
    j ≤ x → k ≤ x → s.pc.toNat = s.base + j.val → k.val = j.val + 1 →
    t.fetch = .ok (BitVec.ofNat 16 (256 * (s.reg j).toNat + (s.reg k).toNat))

/-- exec of CLS answers a next state in which every one of the 2048 pixels is off; VF, memory and everything else is
unchanged. [R131] -/
def Obligations.ClsTurnsEveryPixelOff : Prop :=
  ∀ s : State, ∃ t, exec .cls s = .next t ∧ (∀ r c, t.pixel r c = false) ∧ OnlyChanges [.display] s t

/-- For every buffer, byte b and coordinates: the pixel (r, c) after DrawRow is toggled if r = y0 mod 32 and c = (x0 + k)
mod 64 for a k < 8 whose bit 7 - k of b is 1, and unchanged otherwise; the collision bit is 1 exactly when such a
pixel was on. [R132] -/
def Obligations.DrawRowTogglesItsBits : Prop :=
  ∀ (x0 y0 : Nat) (b : Byte) (fb : Framebuffer),
    let lit : Fin 32 → Fin 64 → Prop := fun r c =>
      r.val = y0 % 32 ∧ ∃ k, k < 8 ∧ c.val = (x0 + k) % 64 ∧ b.getLsbD (7 - k) = true
    (∀ r c, (lit r c → (drawRow x0 y0 b fb).1.pixel r c = !fb.pixel r c)
      ∧ (¬ lit r c → (drawRow x0 y0 b fb).1.pixel r c = fb.pixel r c)) ∧
    ((drawRow x0 y0 b fb).2 = true ↔ ∃ r c, lit r c ∧ fb.pixel r c = true)

/-- exec of DRW with n <= 15 whose n bytes from I exist answers a next state in which exactly the pixels the sprite lights
(from column Vx and row Vy, mod 64 and mod 32) are toggled, and VF is 1 if one of them was on and 0 otherwise; nothing
else changed. [43_display.md (R133), 92_eei_decisions.md D17] -/
def Obligations.DrawTogglesTheSprite : Prop :=
  ∀ (x y : RegIndex) (n : Nat) (s : State), n < 16 → (n = 0 ∨ s.base + n - 1 ≤ 0xFFF) →
    ∃ t, exec (.drwVxVyNibble x y n) s = .next t
      ∧ (∀ r c, (SpriteLights s (s.reg x).toNat (s.reg y).toNat n r c → t.pixel r c = !s.pixel r c)
        ∧ (¬ SpriteLights s (s.reg x).toNat (s.reg y).toNat n r c → t.pixel r c = s.pixel r c))
      ∧ ((∃ r c, SpriteLights s (s.reg x).toNat (s.reg y).toNat n r c ∧ s.pixel r c = true) → t.reg 15 = 1)
      ∧ ((¬ ∃ r c, SpriteLights s (s.reg x).toNat (s.reg y).toNat n r c ∧ s.pixel r c = true) → t.reg 15 = 0)
      ∧ OnlyChanges [.display, .reg 15] s t

/-- exec of DRW with n >= 1 and I + n - 1 > 0xFFF answers the state after raise MemOutOfRange(max(I, 0x1000)): FAULT_CAUSE
reads as code 2 (the spec's decision D7), no pixel and no register differs. [43_display.md (R133), 60_exceptions.md
section 1, 92_eei_decisions.md D6, D7, D24] -/
def Obligations.DrawBeyondMemoryFaults : Prop :=
  ∀ (x y : RegIndex) (n : Nat) (s : State), 1 ≤ n → 0xFFF < s.base + n - 1 →
    ∃ t, exec (.drwVxVyNibble x y n) s = .next t
      ∧ Raised s t .memOutOfRange (max s.base 0x1000) (encode (.drwVxVyNibble x y n)) (s.pc - 2)
      ∧ t.faultCauseCode = 2

/-- For x, y other than 15, n <= 15 and a sprite whose bytes exist: two executions of the same DRW answer a state with
every pixel as before the first and only VF possibly changed, and VF is 1 after the second if and only if the first
turned a pixel on. [43_display.md (R134 (a))] -/
def Obligations.DrawingTwiceRestoresTheDisplay : Prop :=
  ∀ (x y : RegIndex) (n : Nat) (s : State), x ≠ 15 → y ≠ 15 → n < 16 → (n = 0 ∨ s.base + n - 1 ≤ 0xFFF) →
    ∃ t u, exec (.drwVxVyNibble x y n) s = .next t ∧ exec (.drwVxVyNibble x y n) t = .next u
      ∧ OnlyChanges [.reg 15] s u
      ∧ (u.reg 15 = 1 ↔ ∃ r c, s.pixel r c = false ∧ t.pixel r c = true)

/-- If Vx = k with k <= 15, exec of SKP Vx answers a next state with PC 2 more if KEYS[k] = 1 and as found otherwise, of
SKNP Vx the other way round; the latch and everything else is unchanged. [44_keys_timers.md section 1 (R140, R141)] -/
def Obligations.KeySkipsReadTheLatch : Prop :=
  ∀ (x : RegIndex) (k : Fin 16) (s : State), (s.reg x).toNat = k.val →
    (∃ t, exec (.skpVx x) s = .next t ∧ t.pc = (if s.key k = true then s.pc + 2 else s.pc) ∧ OnlyChanges [.pc] s t) ∧
    (∃ t, exec (.sknpVx x) s = .next t ∧ t.pc = (if s.key k = true then s.pc else s.pc + 2) ∧ OnlyChanges [.pc] s t)

/-- If Vx > 15, exec of SKP Vx and of SKNP Vx answers the state after raise KeyIndexOutOfRange(Vx), with FAULT_CAUSE
reading as code 5 (the spec's decision D7). [44_keys_timers.md section 1, 60_exceptions.md section 1,
92_eei_decisions.md D6, D7, D11] -/
def Obligations.KeyIndexAboveFifteenFaults : Prop :=
  ∀ (x : RegIndex) (s : State), 15 < (s.reg x).toNat →
    (∃ t, exec (.skpVx x) s = .next t
      ∧ Raised s t .keyIndexOutOfRange (s.reg x).toNat (encode (.skpVx x)) (s.pc - 2)
      ∧ t.faultCauseCode = 5) ∧
    (∃ t, exec (.sknpVx x) s = .next t
      ∧ Raised s t .keyIndexOutOfRange (s.reg x).toNat (encode (.sknpVx x)) (s.pc - 2)
      ∧ t.faultCauseCode = 5)

/-- exec of LD Vx,DT answers a next state with Vx = DT, of LD DT,Vx one with DT = Vx, of LD ST,Vx one with ST = Vx, and
DELAY_ACTIVE, SOUND_ACTIVE are then whether the written value is not zero (the spec's decision D13, also for a write
of zero); nothing else changes. [44_keys_timers.md section 3 (R142, R144, R145), 10_state.md section 2 (R20),
92_eei_decisions.md D13] -/
def Obligations.TimerTransfers : Prop :=
  ∀ (x : RegIndex) (s : State),
    (∃ t, exec (.ldVxDT x) s = .next t ∧ t.reg x = s.dt ∧ OnlyChanges [.reg x] s t) ∧
    (∃ t, exec (.ldDTVx x) s = .next t ∧ t.dt = s.reg x ∧ (t.delayActive = true ↔ s.reg x ≠ 0)
      ∧ OnlyChanges [.delayTimer] s t) ∧
    (∃ t, exec (.ldSTVx x) s = .next t ∧ t.st = s.reg x ∧ (t.soundActive = true ↔ s.reg x ≠ 0)
      ∧ OnlyChanges [.soundTimer] s t)

/-- exec of LD Vx,K answers a next state with WAIT = 1 and WAIT_REG = x and nothing else changed, whatever keys are held;
and from a state with WAIT = 1, not FAULTED, a due CPU_TICK gives the result IDLE and leaves WAIT and every register
as they are, and a due KEY_PRESS(k) gives V[WAIT_REG] = k and WAIT = 0 and changes nothing else; due events are those
of log 1, and the due one is taken off the pending ones. [44_keys_timers.md section 2 (R143), 30_encoding.md section 1
(R60), 60_exceptions.md section 5 (R169)] -/
def Obligations.WaitForKeySuspends : Prop :=
  ∀ (x : RegIndex) (s : State),
    (∃ t, exec (.ldVxK x) s = .next t ∧ t.wait = true ∧ t.waitReg = x ∧ OnlyChanges [.wait, .waitReg] s t) ∧
    (s.wait = true → s.faulted = false → s.dueEvent = .cpuTick →
      ∃ u, step s = .next u ∧ u.tickResult = some .idle ∧ u.events = s.events.tail
      ∧ OnlyChanges [.tickResult, .events] s u) ∧
    (∀ k : Fin 16, s.wait = true → s.faulted = false → s.dueEvent = .keyPress k →
      ∃ u, step s = .next u ∧ (u.reg s.waitReg).toNat = k.val ∧ u.wait = false
      ∧ u.events = s.events.tail ∧ OnlyChanges [.reg s.waitReg, .wait, .events] s u)

/-- For every instruction and state: if executing the instruction answers a state with another I, the instruction is LD
I,addr, ADD I,Vx or LD F,Vx. [10_state.md section 1 (R13)] -/
def Obligations.OnlyThreeInstructionsChangeI : Prop :=
  ∀ (i : Instr) (s t : State), exec i s = .next t → t.i ≠ s.i →
    (∃ nnn, i = .ldIAddr nnn) ∨ (∃ x, i = .addIVx x) ∨ (∃ x, i = .ldFVx x)

/-- For every instruction and state: if executing the instruction answers a state in which some byte reads differently,
the instruction is LD B,Vx or LD [I],Vx, and the byte's address is at most 0xFFF. [20_memory.md section 1 (R41)] -/
def Obligations.OnlyTwoInstructionsStoreToMemory : Prop :=
  ∀ (i : Instr) (s t : State) (a : Nat), exec i s = .next t → t.byteAt a ≠ s.byteAt a →
    a ≤ 0xFFF ∧ ((∃ x, i = .ldBVx x) ∨ (∃ x, i = .ldMemIVx x))

/-- For every instruction and state, if executing it answers a state t: SP or STACK differs only after CALL or RET; WAIT
only after LD Vx,K; a pixel only after CLS or DRW; DT only after LD DT,Vx; ST only after LD ST,Vx; the draw counter
only after RND; the key latch never. [10_state.md sections 1 and 2 (R14, R15, R16, R18, R19, R21), 41_alu.md section 6
(R113)] -/
def Obligations.WhichInstructionsReachTheDevices : Prop :=
  ∀ (i : Instr) (s t : State), exec i s = .next t →
    ((t.sp ≠ s.sp ∨ t.stack ≠ s.stack) → (∃ nnn, i = .callAddr nnn) ∨ i = .ret) ∧
    (t.wait ≠ s.wait → ∃ x, i = .ldVxK x) ∧
    ((∃ r c, t.pixel r c ≠ s.pixel r c) → i = .cls ∨ ∃ x y n, i = .drwVxVyNibble x y n) ∧
    (t.dt ≠ s.dt → ∃ x, i = .ldDTVx x) ∧
    (t.st ≠ s.st → ∃ x, i = .ldSTVx x) ∧
    (t.draws ≠ s.draws → ∃ x kk, i = .rndVxByte x kk) ∧
    (∀ k, t.key k = s.key k)

/-- For every instruction and state: if executing it answers a state with another VF, it is one of the six that write a
flag (8xy4, 8xy5, 8xy6, 8xy7, 8xyE, Dxyn), or one of 6xkk, 7xkk, 8xy0 to 8xy3, Cxkk, Fx07, Fx65 with x = 15.
[10_state.md section 1 (R11)] -/
def Obligations.WhichInstructionsWriteVF : Prop :=
  ∀ (i : Instr) (s t : State), exec i s = .next t → t.reg 15 ≠ s.reg 15 →
    ((∃ x y, i = .addVxVy x y ∨ i = .subVxVy x y ∨ i = .shrVx x y ∨ i = .subnVxVy x y ∨ i = .shlVx x y)
      ∨ (∃ x y n, i = .drwVxVyNibble x y n)) ∨
    ((∃ kk, i = .ldVxByte 15 kk ∨ i = .addVxByte 15 kk ∨ i = .rndVxByte 15 kk)
      ∨ (∃ y, i = .ldVxVy 15 y ∨ i = .orVxVy 15 y ∨ i = .andVxVy 15 y ∨ i = .xorVxVy 15 y)
      ∨ i = .ldVxDT 15 ∨ i = .ldVxMemI 15)
end

