-- ==== Sys2Proof/Laws/State.lean ====
section
/-! SUPPORT. What each update of State does to each field, and to each accessor it does not touch: one lemma per field per
update, all true by unfolding the update once. -/

namespace Sys2Proof.Machine

/-! ### writeReg -/

@[simp] theorem State.writeReg_v (s : State) (x : RegIndex) (b : Byte) : (s.writeReg x b).v = s.v.set x.val b x.isLt := rfl
@[simp] theorem State.writeReg_pc (s : State) (x : RegIndex) (b : Byte) : (s.writeReg x b).pc = s.pc := rfl
@[simp] theorem State.writeReg_i (s : State) (x : RegIndex) (b : Byte) : (s.writeReg x b).i = s.i := rfl
@[simp] theorem State.writeReg_sp (s : State) (x : RegIndex) (b : Byte) : (s.writeReg x b).sp = s.sp := rfl
@[simp] theorem State.writeReg_stack (s : State) (x : RegIndex) (b : Byte) : (s.writeReg x b).stack = s.stack := rfl
@[simp] theorem State.writeReg_wait (s : State) (x : RegIndex) (b : Byte) : (s.writeReg x b).wait = s.wait := rfl
@[simp] theorem State.writeReg_waitReg (s : State) (x : RegIndex) (b : Byte) : (s.writeReg x b).waitReg = s.waitReg := rfl
@[simp] theorem State.writeReg_mem (s : State) (x : RegIndex) (b : Byte) : (s.writeReg x b).mem = s.mem := rfl
@[simp] theorem State.writeReg_fb (s : State) (x : RegIndex) (b : Byte) : (s.writeReg x b).fb = s.fb := rfl
@[simp] theorem State.writeReg_dt (s : State) (x : RegIndex) (b : Byte) : (s.writeReg x b).dt = s.dt := rfl
@[simp] theorem State.writeReg_st (s : State) (x : RegIndex) (b : Byte) : (s.writeReg x b).st = s.st := rfl
@[simp] theorem State.writeReg_keys (s : State) (x : RegIndex) (b : Byte) : (s.writeReg x b).keys = s.keys := rfl
@[simp] theorem State.writeReg_faulted (s : State) (x : RegIndex) (b : Byte) : (s.writeReg x b).faulted = s.faulted := rfl
@[simp] theorem State.writeReg_faultCause (s : State) (x : RegIndex) (b : Byte) : (s.writeReg x b).faultCause = s.faultCause := rfl
@[simp] theorem State.writeReg_faultOp (s : State) (x : RegIndex) (b : Byte) : (s.writeReg x b).faultOp = s.faultOp := rfl
@[simp] theorem State.writeReg_faultAddr (s : State) (x : RegIndex) (b : Byte) : (s.writeReg x b).faultAddr = s.faultAddr := rfl
@[simp] theorem State.writeReg_faultPc (s : State) (x : RegIndex) (b : Byte) : (s.writeReg x b).faultPc = s.faultPc := rfl
@[simp] theorem State.writeReg_tickResult (s : State) (x : RegIndex) (b : Byte) : (s.writeReg x b).tickResult = s.tickResult := rfl
@[simp] theorem State.writeReg_iAddModulus (s : State) (x : RegIndex) (b : Byte) : (s.writeReg x b).iAddModulus = s.iAddModulus := rfl
@[simp] theorem State.writeReg_draws (s : State) (x : RegIndex) (b : Byte) : (s.writeReg x b).draws = s.draws := rfl
@[simp] theorem State.writeReg_events (s : State) (x : RegIndex) (b : Byte) : (s.writeReg x b).events = s.events := rfl
@[simp] theorem State.writeReg_byteAt (s : State) (x : RegIndex) (b : Byte) (n : Nat) : (s.writeReg x b).byteAt n = s.byteAt n := rfl
@[simp] theorem State.writeReg_pixel (s : State) (x : RegIndex) (b : Byte) (r : Fin 32) (c' : Fin 64) : (s.writeReg x b).pixel r c' = s.pixel r c' := rfl
@[simp] theorem State.writeReg_key (s : State) (x : RegIndex) (b : Byte) (k' : Fin 16) : (s.writeReg x b).key k' = s.key k' := rfl

/-! ### loadRegs -/

@[simp] theorem State.loadRegs_v (s : State) (bytes : List Byte) : (s.loadRegs bytes).v = writeRun s.v 0 bytes := rfl
@[simp] theorem State.loadRegs_pc (s : State) (bytes : List Byte) : (s.loadRegs bytes).pc = s.pc := rfl
@[simp] theorem State.loadRegs_i (s : State) (bytes : List Byte) : (s.loadRegs bytes).i = s.i := rfl
@[simp] theorem State.loadRegs_sp (s : State) (bytes : List Byte) : (s.loadRegs bytes).sp = s.sp := rfl
@[simp] theorem State.loadRegs_stack (s : State) (bytes : List Byte) : (s.loadRegs bytes).stack = s.stack := rfl
@[simp] theorem State.loadRegs_wait (s : State) (bytes : List Byte) : (s.loadRegs bytes).wait = s.wait := rfl
@[simp] theorem State.loadRegs_waitReg (s : State) (bytes : List Byte) : (s.loadRegs bytes).waitReg = s.waitReg := rfl
@[simp] theorem State.loadRegs_mem (s : State) (bytes : List Byte) : (s.loadRegs bytes).mem = s.mem := rfl
@[simp] theorem State.loadRegs_fb (s : State) (bytes : List Byte) : (s.loadRegs bytes).fb = s.fb := rfl
@[simp] theorem State.loadRegs_dt (s : State) (bytes : List Byte) : (s.loadRegs bytes).dt = s.dt := rfl
@[simp] theorem State.loadRegs_st (s : State) (bytes : List Byte) : (s.loadRegs bytes).st = s.st := rfl
@[simp] theorem State.loadRegs_keys (s : State) (bytes : List Byte) : (s.loadRegs bytes).keys = s.keys := rfl
@[simp] theorem State.loadRegs_faulted (s : State) (bytes : List Byte) : (s.loadRegs bytes).faulted = s.faulted := rfl
@[simp] theorem State.loadRegs_faultCause (s : State) (bytes : List Byte) : (s.loadRegs bytes).faultCause = s.faultCause := rfl
@[simp] theorem State.loadRegs_faultOp (s : State) (bytes : List Byte) : (s.loadRegs bytes).faultOp = s.faultOp := rfl
@[simp] theorem State.loadRegs_faultAddr (s : State) (bytes : List Byte) : (s.loadRegs bytes).faultAddr = s.faultAddr := rfl
@[simp] theorem State.loadRegs_faultPc (s : State) (bytes : List Byte) : (s.loadRegs bytes).faultPc = s.faultPc := rfl
@[simp] theorem State.loadRegs_tickResult (s : State) (bytes : List Byte) : (s.loadRegs bytes).tickResult = s.tickResult := rfl
@[simp] theorem State.loadRegs_iAddModulus (s : State) (bytes : List Byte) : (s.loadRegs bytes).iAddModulus = s.iAddModulus := rfl
@[simp] theorem State.loadRegs_draws (s : State) (bytes : List Byte) : (s.loadRegs bytes).draws = s.draws := rfl
@[simp] theorem State.loadRegs_events (s : State) (bytes : List Byte) : (s.loadRegs bytes).events = s.events := rfl
@[simp] theorem State.loadRegs_byteAt (s : State) (bytes : List Byte) (n : Nat) : (s.loadRegs bytes).byteAt n = s.byteAt n := rfl
@[simp] theorem State.loadRegs_pixel (s : State) (bytes : List Byte) (r : Fin 32) (c' : Fin 64) : (s.loadRegs bytes).pixel r c' = s.pixel r c' := rfl
@[simp] theorem State.loadRegs_key (s : State) (bytes : List Byte) (k' : Fin 16) : (s.loadRegs bytes).key k' = s.key k' := rfl

/-! ### writePc -/

@[simp] theorem State.writePc_v (s : State) (a : Word) : (s.writePc a).v = s.v := rfl
@[simp] theorem State.writePc_pc (s : State) (a : Word) : (s.writePc a).pc = a := rfl
@[simp] theorem State.writePc_i (s : State) (a : Word) : (s.writePc a).i = s.i := rfl
@[simp] theorem State.writePc_sp (s : State) (a : Word) : (s.writePc a).sp = s.sp := rfl
@[simp] theorem State.writePc_stack (s : State) (a : Word) : (s.writePc a).stack = s.stack := rfl
@[simp] theorem State.writePc_wait (s : State) (a : Word) : (s.writePc a).wait = s.wait := rfl
@[simp] theorem State.writePc_waitReg (s : State) (a : Word) : (s.writePc a).waitReg = s.waitReg := rfl
@[simp] theorem State.writePc_mem (s : State) (a : Word) : (s.writePc a).mem = s.mem := rfl
@[simp] theorem State.writePc_fb (s : State) (a : Word) : (s.writePc a).fb = s.fb := rfl
@[simp] theorem State.writePc_dt (s : State) (a : Word) : (s.writePc a).dt = s.dt := rfl
@[simp] theorem State.writePc_st (s : State) (a : Word) : (s.writePc a).st = s.st := rfl
@[simp] theorem State.writePc_keys (s : State) (a : Word) : (s.writePc a).keys = s.keys := rfl
@[simp] theorem State.writePc_faulted (s : State) (a : Word) : (s.writePc a).faulted = s.faulted := rfl
@[simp] theorem State.writePc_faultCause (s : State) (a : Word) : (s.writePc a).faultCause = s.faultCause := rfl
@[simp] theorem State.writePc_faultOp (s : State) (a : Word) : (s.writePc a).faultOp = s.faultOp := rfl
@[simp] theorem State.writePc_faultAddr (s : State) (a : Word) : (s.writePc a).faultAddr = s.faultAddr := rfl
@[simp] theorem State.writePc_faultPc (s : State) (a : Word) : (s.writePc a).faultPc = s.faultPc := rfl
@[simp] theorem State.writePc_tickResult (s : State) (a : Word) : (s.writePc a).tickResult = s.tickResult := rfl
@[simp] theorem State.writePc_iAddModulus (s : State) (a : Word) : (s.writePc a).iAddModulus = s.iAddModulus := rfl
@[simp] theorem State.writePc_draws (s : State) (a : Word) : (s.writePc a).draws = s.draws := rfl
@[simp] theorem State.writePc_events (s : State) (a : Word) : (s.writePc a).events = s.events := rfl
@[simp] theorem State.writePc_reg (s : State) (a : Word) (r : RegIndex) : (s.writePc a).reg r = s.reg r := rfl
@[simp] theorem State.writePc_byteAt (s : State) (a : Word) (n : Nat) : (s.writePc a).byteAt n = s.byteAt n := rfl
@[simp] theorem State.writePc_pixel (s : State) (a : Word) (r : Fin 32) (c' : Fin 64) : (s.writePc a).pixel r c' = s.pixel r c' := rfl
@[simp] theorem State.writePc_key (s : State) (a : Word) (k' : Fin 16) : (s.writePc a).key k' = s.key k' := rfl

/-! ### writeI -/

@[simp] theorem State.writeI_v (s : State) (a : Word) : (s.writeI a).v = s.v := rfl
@[simp] theorem State.writeI_pc (s : State) (a : Word) : (s.writeI a).pc = s.pc := rfl
@[simp] theorem State.writeI_i (s : State) (a : Word) : (s.writeI a).i = a := rfl
@[simp] theorem State.writeI_sp (s : State) (a : Word) : (s.writeI a).sp = s.sp := rfl
@[simp] theorem State.writeI_stack (s : State) (a : Word) : (s.writeI a).stack = s.stack := rfl
@[simp] theorem State.writeI_wait (s : State) (a : Word) : (s.writeI a).wait = s.wait := rfl
@[simp] theorem State.writeI_waitReg (s : State) (a : Word) : (s.writeI a).waitReg = s.waitReg := rfl
@[simp] theorem State.writeI_mem (s : State) (a : Word) : (s.writeI a).mem = s.mem := rfl
@[simp] theorem State.writeI_fb (s : State) (a : Word) : (s.writeI a).fb = s.fb := rfl
@[simp] theorem State.writeI_dt (s : State) (a : Word) : (s.writeI a).dt = s.dt := rfl
@[simp] theorem State.writeI_st (s : State) (a : Word) : (s.writeI a).st = s.st := rfl
@[simp] theorem State.writeI_keys (s : State) (a : Word) : (s.writeI a).keys = s.keys := rfl
@[simp] theorem State.writeI_faulted (s : State) (a : Word) : (s.writeI a).faulted = s.faulted := rfl
@[simp] theorem State.writeI_faultCause (s : State) (a : Word) : (s.writeI a).faultCause = s.faultCause := rfl
@[simp] theorem State.writeI_faultOp (s : State) (a : Word) : (s.writeI a).faultOp = s.faultOp := rfl
@[simp] theorem State.writeI_faultAddr (s : State) (a : Word) : (s.writeI a).faultAddr = s.faultAddr := rfl
@[simp] theorem State.writeI_faultPc (s : State) (a : Word) : (s.writeI a).faultPc = s.faultPc := rfl
@[simp] theorem State.writeI_tickResult (s : State) (a : Word) : (s.writeI a).tickResult = s.tickResult := rfl
@[simp] theorem State.writeI_iAddModulus (s : State) (a : Word) : (s.writeI a).iAddModulus = s.iAddModulus := rfl
@[simp] theorem State.writeI_draws (s : State) (a : Word) : (s.writeI a).draws = s.draws := rfl
@[simp] theorem State.writeI_events (s : State) (a : Word) : (s.writeI a).events = s.events := rfl
@[simp] theorem State.writeI_reg (s : State) (a : Word) (r : RegIndex) : (s.writeI a).reg r = s.reg r := rfl
@[simp] theorem State.writeI_byteAt (s : State) (a : Word) (n : Nat) : (s.writeI a).byteAt n = s.byteAt n := rfl
@[simp] theorem State.writeI_pixel (s : State) (a : Word) (r : Fin 32) (c' : Fin 64) : (s.writeI a).pixel r c' = s.pixel r c' := rfl
@[simp] theorem State.writeI_key (s : State) (a : Word) (k' : Fin 16) : (s.writeI a).key k' = s.key k' := rfl

/-! ### push -/

@[simp] theorem State.push_v (s : State) (a : Word) : (s.push a).v = s.v := rfl
@[simp] theorem State.push_pc (s : State) (a : Word) : (s.push a).pc = s.pc := rfl
@[simp] theorem State.push_i (s : State) (a : Word) : (s.push a).i = s.i := rfl
@[simp] theorem State.push_sp (s : State) (a : Word) : (s.push a).sp = s.sp + 1 := rfl
@[simp] theorem State.push_stack (s : State) (a : Word) : (s.push a).stack = s.stack.setIfInBounds (s.sp + 1).toNat a := rfl
@[simp] theorem State.push_wait (s : State) (a : Word) : (s.push a).wait = s.wait := rfl
@[simp] theorem State.push_waitReg (s : State) (a : Word) : (s.push a).waitReg = s.waitReg := rfl
@[simp] theorem State.push_mem (s : State) (a : Word) : (s.push a).mem = s.mem := rfl
@[simp] theorem State.push_fb (s : State) (a : Word) : (s.push a).fb = s.fb := rfl
@[simp] theorem State.push_dt (s : State) (a : Word) : (s.push a).dt = s.dt := rfl
@[simp] theorem State.push_st (s : State) (a : Word) : (s.push a).st = s.st := rfl
@[simp] theorem State.push_keys (s : State) (a : Word) : (s.push a).keys = s.keys := rfl
@[simp] theorem State.push_faulted (s : State) (a : Word) : (s.push a).faulted = s.faulted := rfl
@[simp] theorem State.push_faultCause (s : State) (a : Word) : (s.push a).faultCause = s.faultCause := rfl
@[simp] theorem State.push_faultOp (s : State) (a : Word) : (s.push a).faultOp = s.faultOp := rfl
@[simp] theorem State.push_faultAddr (s : State) (a : Word) : (s.push a).faultAddr = s.faultAddr := rfl
@[simp] theorem State.push_faultPc (s : State) (a : Word) : (s.push a).faultPc = s.faultPc := rfl
@[simp] theorem State.push_tickResult (s : State) (a : Word) : (s.push a).tickResult = s.tickResult := rfl
@[simp] theorem State.push_iAddModulus (s : State) (a : Word) : (s.push a).iAddModulus = s.iAddModulus := rfl
@[simp] theorem State.push_draws (s : State) (a : Word) : (s.push a).draws = s.draws := rfl
@[simp] theorem State.push_events (s : State) (a : Word) : (s.push a).events = s.events := rfl
@[simp] theorem State.push_reg (s : State) (a : Word) (r : RegIndex) : (s.push a).reg r = s.reg r := rfl
@[simp] theorem State.push_byteAt (s : State) (a : Word) (n : Nat) : (s.push a).byteAt n = s.byteAt n := rfl
@[simp] theorem State.push_pixel (s : State) (a : Word) (r : Fin 32) (c' : Fin 64) : (s.push a).pixel r c' = s.pixel r c' := rfl
@[simp] theorem State.push_key (s : State) (a : Word) (k' : Fin 16) : (s.push a).key k' = s.key k' := rfl

/-! ### dropTop -/

@[simp] theorem State.dropTop_v (s : State) : (s.dropTop).v = s.v := rfl
@[simp] theorem State.dropTop_pc (s : State) : (s.dropTop).pc = s.pc := rfl
@[simp] theorem State.dropTop_i (s : State) : (s.dropTop).i = s.i := rfl
@[simp] theorem State.dropTop_sp (s : State) : (s.dropTop).sp = s.sp - 1 := rfl
@[simp] theorem State.dropTop_stack (s : State) : (s.dropTop).stack = s.stack := rfl
@[simp] theorem State.dropTop_wait (s : State) : (s.dropTop).wait = s.wait := rfl
@[simp] theorem State.dropTop_waitReg (s : State) : (s.dropTop).waitReg = s.waitReg := rfl
@[simp] theorem State.dropTop_mem (s : State) : (s.dropTop).mem = s.mem := rfl
@[simp] theorem State.dropTop_fb (s : State) : (s.dropTop).fb = s.fb := rfl
@[simp] theorem State.dropTop_dt (s : State) : (s.dropTop).dt = s.dt := rfl
@[simp] theorem State.dropTop_st (s : State) : (s.dropTop).st = s.st := rfl
@[simp] theorem State.dropTop_keys (s : State) : (s.dropTop).keys = s.keys := rfl
@[simp] theorem State.dropTop_faulted (s : State) : (s.dropTop).faulted = s.faulted := rfl
@[simp] theorem State.dropTop_faultCause (s : State) : (s.dropTop).faultCause = s.faultCause := rfl
@[simp] theorem State.dropTop_faultOp (s : State) : (s.dropTop).faultOp = s.faultOp := rfl
@[simp] theorem State.dropTop_faultAddr (s : State) : (s.dropTop).faultAddr = s.faultAddr := rfl
@[simp] theorem State.dropTop_faultPc (s : State) : (s.dropTop).faultPc = s.faultPc := rfl
@[simp] theorem State.dropTop_tickResult (s : State) : (s.dropTop).tickResult = s.tickResult := rfl
@[simp] theorem State.dropTop_iAddModulus (s : State) : (s.dropTop).iAddModulus = s.iAddModulus := rfl
@[simp] theorem State.dropTop_draws (s : State) : (s.dropTop).draws = s.draws := rfl
@[simp] theorem State.dropTop_events (s : State) : (s.dropTop).events = s.events := rfl
@[simp] theorem State.dropTop_reg (s : State) (r : RegIndex) : (s.dropTop).reg r = s.reg r := rfl
@[simp] theorem State.dropTop_byteAt (s : State) (n : Nat) : (s.dropTop).byteAt n = s.byteAt n := rfl
@[simp] theorem State.dropTop_pixel (s : State) (r : Fin 32) (c' : Fin 64) : (s.dropTop).pixel r c' = s.pixel r c' := rfl
@[simp] theorem State.dropTop_key (s : State) (k' : Fin 16) : (s.dropTop).key k' = s.key k' := rfl

/-! ### storeBytes -/

@[simp] theorem State.storeBytes_v (s : State) (a : Nat) (bytes : List Byte) : (s.storeBytes a bytes).v = s.v := rfl
@[simp] theorem State.storeBytes_pc (s : State) (a : Nat) (bytes : List Byte) : (s.storeBytes a bytes).pc = s.pc := rfl
@[simp] theorem State.storeBytes_i (s : State) (a : Nat) (bytes : List Byte) : (s.storeBytes a bytes).i = s.i := rfl
@[simp] theorem State.storeBytes_sp (s : State) (a : Nat) (bytes : List Byte) : (s.storeBytes a bytes).sp = s.sp := rfl
@[simp] theorem State.storeBytes_stack (s : State) (a : Nat) (bytes : List Byte) : (s.storeBytes a bytes).stack = s.stack := rfl
@[simp] theorem State.storeBytes_wait (s : State) (a : Nat) (bytes : List Byte) : (s.storeBytes a bytes).wait = s.wait := rfl
@[simp] theorem State.storeBytes_waitReg (s : State) (a : Nat) (bytes : List Byte) : (s.storeBytes a bytes).waitReg = s.waitReg := rfl
@[simp] theorem State.storeBytes_mem (s : State) (a : Nat) (bytes : List Byte) : (s.storeBytes a bytes).mem = Memory.writeBytes s.mem a bytes := rfl
@[simp] theorem State.storeBytes_fb (s : State) (a : Nat) (bytes : List Byte) : (s.storeBytes a bytes).fb = s.fb := rfl
@[simp] theorem State.storeBytes_dt (s : State) (a : Nat) (bytes : List Byte) : (s.storeBytes a bytes).dt = s.dt := rfl
@[simp] theorem State.storeBytes_st (s : State) (a : Nat) (bytes : List Byte) : (s.storeBytes a bytes).st = s.st := rfl
@[simp] theorem State.storeBytes_keys (s : State) (a : Nat) (bytes : List Byte) : (s.storeBytes a bytes).keys = s.keys := rfl
@[simp] theorem State.storeBytes_faulted (s : State) (a : Nat) (bytes : List Byte) : (s.storeBytes a bytes).faulted = s.faulted := rfl
@[simp] theorem State.storeBytes_faultCause (s : State) (a : Nat) (bytes : List Byte) : (s.storeBytes a bytes).faultCause = s.faultCause := rfl
@[simp] theorem State.storeBytes_faultOp (s : State) (a : Nat) (bytes : List Byte) : (s.storeBytes a bytes).faultOp = s.faultOp := rfl
@[simp] theorem State.storeBytes_faultAddr (s : State) (a : Nat) (bytes : List Byte) : (s.storeBytes a bytes).faultAddr = s.faultAddr := rfl
@[simp] theorem State.storeBytes_faultPc (s : State) (a : Nat) (bytes : List Byte) : (s.storeBytes a bytes).faultPc = s.faultPc := rfl
@[simp] theorem State.storeBytes_tickResult (s : State) (a : Nat) (bytes : List Byte) : (s.storeBytes a bytes).tickResult = s.tickResult := rfl
@[simp] theorem State.storeBytes_iAddModulus (s : State) (a : Nat) (bytes : List Byte) : (s.storeBytes a bytes).iAddModulus = s.iAddModulus := rfl
@[simp] theorem State.storeBytes_draws (s : State) (a : Nat) (bytes : List Byte) : (s.storeBytes a bytes).draws = s.draws := rfl
@[simp] theorem State.storeBytes_events (s : State) (a : Nat) (bytes : List Byte) : (s.storeBytes a bytes).events = s.events := rfl
@[simp] theorem State.storeBytes_reg (s : State) (a : Nat) (bytes : List Byte) (r : RegIndex) : (s.storeBytes a bytes).reg r = s.reg r := rfl
@[simp] theorem State.storeBytes_pixel (s : State) (a : Nat) (bytes : List Byte) (r : Fin 32) (c' : Fin 64) : (s.storeBytes a bytes).pixel r c' = s.pixel r c' := rfl
@[simp] theorem State.storeBytes_key (s : State) (a : Nat) (bytes : List Byte) (k' : Fin 16) : (s.storeBytes a bytes).key k' = s.key k' := rfl

/-! ### writeFb -/

@[simp] theorem State.writeFb_v (s : State) (fb : Framebuffer) : (s.writeFb fb).v = s.v := rfl
@[simp] theorem State.writeFb_pc (s : State) (fb : Framebuffer) : (s.writeFb fb).pc = s.pc := rfl
@[simp] theorem State.writeFb_i (s : State) (fb : Framebuffer) : (s.writeFb fb).i = s.i := rfl
@[simp] theorem State.writeFb_sp (s : State) (fb : Framebuffer) : (s.writeFb fb).sp = s.sp := rfl
@[simp] theorem State.writeFb_stack (s : State) (fb : Framebuffer) : (s.writeFb fb).stack = s.stack := rfl
@[simp] theorem State.writeFb_wait (s : State) (fb : Framebuffer) : (s.writeFb fb).wait = s.wait := rfl
@[simp] theorem State.writeFb_waitReg (s : State) (fb : Framebuffer) : (s.writeFb fb).waitReg = s.waitReg := rfl
@[simp] theorem State.writeFb_mem (s : State) (fb : Framebuffer) : (s.writeFb fb).mem = s.mem := rfl
@[simp] theorem State.writeFb_fb (s : State) (fb : Framebuffer) : (s.writeFb fb).fb = fb := rfl
@[simp] theorem State.writeFb_dt (s : State) (fb : Framebuffer) : (s.writeFb fb).dt = s.dt := rfl
@[simp] theorem State.writeFb_st (s : State) (fb : Framebuffer) : (s.writeFb fb).st = s.st := rfl
@[simp] theorem State.writeFb_keys (s : State) (fb : Framebuffer) : (s.writeFb fb).keys = s.keys := rfl
@[simp] theorem State.writeFb_faulted (s : State) (fb : Framebuffer) : (s.writeFb fb).faulted = s.faulted := rfl
@[simp] theorem State.writeFb_faultCause (s : State) (fb : Framebuffer) : (s.writeFb fb).faultCause = s.faultCause := rfl
@[simp] theorem State.writeFb_faultOp (s : State) (fb : Framebuffer) : (s.writeFb fb).faultOp = s.faultOp := rfl
@[simp] theorem State.writeFb_faultAddr (s : State) (fb : Framebuffer) : (s.writeFb fb).faultAddr = s.faultAddr := rfl
@[simp] theorem State.writeFb_faultPc (s : State) (fb : Framebuffer) : (s.writeFb fb).faultPc = s.faultPc := rfl
@[simp] theorem State.writeFb_tickResult (s : State) (fb : Framebuffer) : (s.writeFb fb).tickResult = s.tickResult := rfl
@[simp] theorem State.writeFb_iAddModulus (s : State) (fb : Framebuffer) : (s.writeFb fb).iAddModulus = s.iAddModulus := rfl
@[simp] theorem State.writeFb_draws (s : State) (fb : Framebuffer) : (s.writeFb fb).draws = s.draws := rfl
@[simp] theorem State.writeFb_events (s : State) (fb : Framebuffer) : (s.writeFb fb).events = s.events := rfl
@[simp] theorem State.writeFb_reg (s : State) (fb : Framebuffer) (r : RegIndex) : (s.writeFb fb).reg r = s.reg r := rfl
@[simp] theorem State.writeFb_byteAt (s : State) (fb : Framebuffer) (n : Nat) : (s.writeFb fb).byteAt n = s.byteAt n := rfl
@[simp] theorem State.writeFb_key (s : State) (fb : Framebuffer) (k' : Fin 16) : (s.writeFb fb).key k' = s.key k' := rfl

/-! ### writeDT -/

@[simp] theorem State.writeDT_v (s : State) (b : Byte) : (s.writeDT b).v = s.v := rfl
@[simp] theorem State.writeDT_pc (s : State) (b : Byte) : (s.writeDT b).pc = s.pc := rfl
@[simp] theorem State.writeDT_i (s : State) (b : Byte) : (s.writeDT b).i = s.i := rfl
@[simp] theorem State.writeDT_sp (s : State) (b : Byte) : (s.writeDT b).sp = s.sp := rfl
@[simp] theorem State.writeDT_stack (s : State) (b : Byte) : (s.writeDT b).stack = s.stack := rfl
@[simp] theorem State.writeDT_wait (s : State) (b : Byte) : (s.writeDT b).wait = s.wait := rfl
@[simp] theorem State.writeDT_waitReg (s : State) (b : Byte) : (s.writeDT b).waitReg = s.waitReg := rfl
@[simp] theorem State.writeDT_mem (s : State) (b : Byte) : (s.writeDT b).mem = s.mem := rfl
@[simp] theorem State.writeDT_fb (s : State) (b : Byte) : (s.writeDT b).fb = s.fb := rfl
@[simp] theorem State.writeDT_dt (s : State) (b : Byte) : (s.writeDT b).dt = b := rfl
@[simp] theorem State.writeDT_st (s : State) (b : Byte) : (s.writeDT b).st = s.st := rfl
@[simp] theorem State.writeDT_keys (s : State) (b : Byte) : (s.writeDT b).keys = s.keys := rfl
@[simp] theorem State.writeDT_faulted (s : State) (b : Byte) : (s.writeDT b).faulted = s.faulted := rfl
@[simp] theorem State.writeDT_faultCause (s : State) (b : Byte) : (s.writeDT b).faultCause = s.faultCause := rfl
@[simp] theorem State.writeDT_faultOp (s : State) (b : Byte) : (s.writeDT b).faultOp = s.faultOp := rfl
@[simp] theorem State.writeDT_faultAddr (s : State) (b : Byte) : (s.writeDT b).faultAddr = s.faultAddr := rfl
@[simp] theorem State.writeDT_faultPc (s : State) (b : Byte) : (s.writeDT b).faultPc = s.faultPc := rfl
@[simp] theorem State.writeDT_tickResult (s : State) (b : Byte) : (s.writeDT b).tickResult = s.tickResult := rfl
@[simp] theorem State.writeDT_iAddModulus (s : State) (b : Byte) : (s.writeDT b).iAddModulus = s.iAddModulus := rfl
@[simp] theorem State.writeDT_draws (s : State) (b : Byte) : (s.writeDT b).draws = s.draws := rfl
@[simp] theorem State.writeDT_events (s : State) (b : Byte) : (s.writeDT b).events = s.events := rfl
@[simp] theorem State.writeDT_reg (s : State) (b : Byte) (r : RegIndex) : (s.writeDT b).reg r = s.reg r := rfl
@[simp] theorem State.writeDT_byteAt (s : State) (b : Byte) (n : Nat) : (s.writeDT b).byteAt n = s.byteAt n := rfl
@[simp] theorem State.writeDT_pixel (s : State) (b : Byte) (r : Fin 32) (c' : Fin 64) : (s.writeDT b).pixel r c' = s.pixel r c' := rfl
@[simp] theorem State.writeDT_key (s : State) (b : Byte) (k' : Fin 16) : (s.writeDT b).key k' = s.key k' := rfl

/-! ### writeST -/

@[simp] theorem State.writeST_v (s : State) (b : Byte) : (s.writeST b).v = s.v := rfl
@[simp] theorem State.writeST_pc (s : State) (b : Byte) : (s.writeST b).pc = s.pc := rfl
@[simp] theorem State.writeST_i (s : State) (b : Byte) : (s.writeST b).i = s.i := rfl
@[simp] theorem State.writeST_sp (s : State) (b : Byte) : (s.writeST b).sp = s.sp := rfl
@[simp] theorem State.writeST_stack (s : State) (b : Byte) : (s.writeST b).stack = s.stack := rfl
@[simp] theorem State.writeST_wait (s : State) (b : Byte) : (s.writeST b).wait = s.wait := rfl
@[simp] theorem State.writeST_waitReg (s : State) (b : Byte) : (s.writeST b).waitReg = s.waitReg := rfl
@[simp] theorem State.writeST_mem (s : State) (b : Byte) : (s.writeST b).mem = s.mem := rfl
@[simp] theorem State.writeST_fb (s : State) (b : Byte) : (s.writeST b).fb = s.fb := rfl
@[simp] theorem State.writeST_dt (s : State) (b : Byte) : (s.writeST b).dt = s.dt := rfl
@[simp] theorem State.writeST_st (s : State) (b : Byte) : (s.writeST b).st = b := rfl
@[simp] theorem State.writeST_keys (s : State) (b : Byte) : (s.writeST b).keys = s.keys := rfl
@[simp] theorem State.writeST_faulted (s : State) (b : Byte) : (s.writeST b).faulted = s.faulted := rfl
@[simp] theorem State.writeST_faultCause (s : State) (b : Byte) : (s.writeST b).faultCause = s.faultCause := rfl
@[simp] theorem State.writeST_faultOp (s : State) (b : Byte) : (s.writeST b).faultOp = s.faultOp := rfl
@[simp] theorem State.writeST_faultAddr (s : State) (b : Byte) : (s.writeST b).faultAddr = s.faultAddr := rfl
@[simp] theorem State.writeST_faultPc (s : State) (b : Byte) : (s.writeST b).faultPc = s.faultPc := rfl
@[simp] theorem State.writeST_tickResult (s : State) (b : Byte) : (s.writeST b).tickResult = s.tickResult := rfl
@[simp] theorem State.writeST_iAddModulus (s : State) (b : Byte) : (s.writeST b).iAddModulus = s.iAddModulus := rfl
@[simp] theorem State.writeST_draws (s : State) (b : Byte) : (s.writeST b).draws = s.draws := rfl
@[simp] theorem State.writeST_events (s : State) (b : Byte) : (s.writeST b).events = s.events := rfl
@[simp] theorem State.writeST_reg (s : State) (b : Byte) (r : RegIndex) : (s.writeST b).reg r = s.reg r := rfl
@[simp] theorem State.writeST_byteAt (s : State) (b : Byte) (n : Nat) : (s.writeST b).byteAt n = s.byteAt n := rfl
@[simp] theorem State.writeST_pixel (s : State) (b : Byte) (r : Fin 32) (c' : Fin 64) : (s.writeST b).pixel r c' = s.pixel r c' := rfl
@[simp] theorem State.writeST_key (s : State) (b : Byte) (k' : Fin 16) : (s.writeST b).key k' = s.key k' := rfl

/-! ### writeKey -/

@[simp] theorem State.writeKey_v (s : State) (k : Fin 16) (b : Bool) : (s.writeKey k b).v = s.v := rfl
@[simp] theorem State.writeKey_pc (s : State) (k : Fin 16) (b : Bool) : (s.writeKey k b).pc = s.pc := rfl
@[simp] theorem State.writeKey_i (s : State) (k : Fin 16) (b : Bool) : (s.writeKey k b).i = s.i := rfl
@[simp] theorem State.writeKey_sp (s : State) (k : Fin 16) (b : Bool) : (s.writeKey k b).sp = s.sp := rfl
@[simp] theorem State.writeKey_stack (s : State) (k : Fin 16) (b : Bool) : (s.writeKey k b).stack = s.stack := rfl
@[simp] theorem State.writeKey_wait (s : State) (k : Fin 16) (b : Bool) : (s.writeKey k b).wait = s.wait := rfl
@[simp] theorem State.writeKey_waitReg (s : State) (k : Fin 16) (b : Bool) : (s.writeKey k b).waitReg = s.waitReg := rfl
@[simp] theorem State.writeKey_mem (s : State) (k : Fin 16) (b : Bool) : (s.writeKey k b).mem = s.mem := rfl
@[simp] theorem State.writeKey_fb (s : State) (k : Fin 16) (b : Bool) : (s.writeKey k b).fb = s.fb := rfl
@[simp] theorem State.writeKey_dt (s : State) (k : Fin 16) (b : Bool) : (s.writeKey k b).dt = s.dt := rfl
@[simp] theorem State.writeKey_st (s : State) (k : Fin 16) (b : Bool) : (s.writeKey k b).st = s.st := rfl
@[simp] theorem State.writeKey_keys (s : State) (k : Fin 16) (b : Bool) : (s.writeKey k b).keys = s.keys.set k.val b k.isLt := rfl
@[simp] theorem State.writeKey_faulted (s : State) (k : Fin 16) (b : Bool) : (s.writeKey k b).faulted = s.faulted := rfl
@[simp] theorem State.writeKey_faultCause (s : State) (k : Fin 16) (b : Bool) : (s.writeKey k b).faultCause = s.faultCause := rfl
@[simp] theorem State.writeKey_faultOp (s : State) (k : Fin 16) (b : Bool) : (s.writeKey k b).faultOp = s.faultOp := rfl
@[simp] theorem State.writeKey_faultAddr (s : State) (k : Fin 16) (b : Bool) : (s.writeKey k b).faultAddr = s.faultAddr := rfl
@[simp] theorem State.writeKey_faultPc (s : State) (k : Fin 16) (b : Bool) : (s.writeKey k b).faultPc = s.faultPc := rfl
@[simp] theorem State.writeKey_tickResult (s : State) (k : Fin 16) (b : Bool) : (s.writeKey k b).tickResult = s.tickResult := rfl
@[simp] theorem State.writeKey_iAddModulus (s : State) (k : Fin 16) (b : Bool) : (s.writeKey k b).iAddModulus = s.iAddModulus := rfl
@[simp] theorem State.writeKey_draws (s : State) (k : Fin 16) (b : Bool) : (s.writeKey k b).draws = s.draws := rfl
@[simp] theorem State.writeKey_events (s : State) (k : Fin 16) (b : Bool) : (s.writeKey k b).events = s.events := rfl
@[simp] theorem State.writeKey_reg (s : State) (k : Fin 16) (b : Bool) (r : RegIndex) : (s.writeKey k b).reg r = s.reg r := rfl
@[simp] theorem State.writeKey_byteAt (s : State) (k : Fin 16) (b : Bool) (n : Nat) : (s.writeKey k b).byteAt n = s.byteAt n := rfl
@[simp] theorem State.writeKey_pixel (s : State) (k : Fin 16) (b : Bool) (r : Fin 32) (c' : Fin 64) : (s.writeKey k b).pixel r c' = s.pixel r c' := rfl

/-! ### enterWait -/

@[simp] theorem State.enterWait_v (s : State) (x : RegIndex) : (s.enterWait x).v = s.v := rfl
@[simp] theorem State.enterWait_pc (s : State) (x : RegIndex) : (s.enterWait x).pc = s.pc := rfl
@[simp] theorem State.enterWait_i (s : State) (x : RegIndex) : (s.enterWait x).i = s.i := rfl
@[simp] theorem State.enterWait_sp (s : State) (x : RegIndex) : (s.enterWait x).sp = s.sp := rfl
@[simp] theorem State.enterWait_stack (s : State) (x : RegIndex) : (s.enterWait x).stack = s.stack := rfl
@[simp] theorem State.enterWait_wait (s : State) (x : RegIndex) : (s.enterWait x).wait = true := rfl
@[simp] theorem State.enterWait_waitReg (s : State) (x : RegIndex) : (s.enterWait x).waitReg = x := rfl
@[simp] theorem State.enterWait_mem (s : State) (x : RegIndex) : (s.enterWait x).mem = s.mem := rfl
@[simp] theorem State.enterWait_fb (s : State) (x : RegIndex) : (s.enterWait x).fb = s.fb := rfl
@[simp] theorem State.enterWait_dt (s : State) (x : RegIndex) : (s.enterWait x).dt = s.dt := rfl
@[simp] theorem State.enterWait_st (s : State) (x : RegIndex) : (s.enterWait x).st = s.st := rfl
@[simp] theorem State.enterWait_keys (s : State) (x : RegIndex) : (s.enterWait x).keys = s.keys := rfl
@[simp] theorem State.enterWait_faulted (s : State) (x : RegIndex) : (s.enterWait x).faulted = s.faulted := rfl
@[simp] theorem State.enterWait_faultCause (s : State) (x : RegIndex) : (s.enterWait x).faultCause = s.faultCause := rfl
@[simp] theorem State.enterWait_faultOp (s : State) (x : RegIndex) : (s.enterWait x).faultOp = s.faultOp := rfl
@[simp] theorem State.enterWait_faultAddr (s : State) (x : RegIndex) : (s.enterWait x).faultAddr = s.faultAddr := rfl
@[simp] theorem State.enterWait_faultPc (s : State) (x : RegIndex) : (s.enterWait x).faultPc = s.faultPc := rfl
@[simp] theorem State.enterWait_tickResult (s : State) (x : RegIndex) : (s.enterWait x).tickResult = s.tickResult := rfl
@[simp] theorem State.enterWait_iAddModulus (s : State) (x : RegIndex) : (s.enterWait x).iAddModulus = s.iAddModulus := rfl
@[simp] theorem State.enterWait_draws (s : State) (x : RegIndex) : (s.enterWait x).draws = s.draws := rfl
@[simp] theorem State.enterWait_events (s : State) (x : RegIndex) : (s.enterWait x).events = s.events := rfl
@[simp] theorem State.enterWait_reg (s : State) (x : RegIndex) (r : RegIndex) : (s.enterWait x).reg r = s.reg r := rfl
@[simp] theorem State.enterWait_byteAt (s : State) (x : RegIndex) (n : Nat) : (s.enterWait x).byteAt n = s.byteAt n := rfl
@[simp] theorem State.enterWait_pixel (s : State) (x : RegIndex) (r : Fin 32) (c' : Fin 64) : (s.enterWait x).pixel r c' = s.pixel r c' := rfl
@[simp] theorem State.enterWait_key (s : State) (x : RegIndex) (k' : Fin 16) : (s.enterWait x).key k' = s.key k' := rfl

/-! ### leaveWait -/

@[simp] theorem State.leaveWait_v (s : State) : (s.leaveWait).v = s.v := rfl
@[simp] theorem State.leaveWait_pc (s : State) : (s.leaveWait).pc = s.pc := rfl
@[simp] theorem State.leaveWait_i (s : State) : (s.leaveWait).i = s.i := rfl
@[simp] theorem State.leaveWait_sp (s : State) : (s.leaveWait).sp = s.sp := rfl
@[simp] theorem State.leaveWait_stack (s : State) : (s.leaveWait).stack = s.stack := rfl
@[simp] theorem State.leaveWait_wait (s : State) : (s.leaveWait).wait = false := rfl
@[simp] theorem State.leaveWait_waitReg (s : State) : (s.leaveWait).waitReg = s.waitReg := rfl
@[simp] theorem State.leaveWait_mem (s : State) : (s.leaveWait).mem = s.mem := rfl
@[simp] theorem State.leaveWait_fb (s : State) : (s.leaveWait).fb = s.fb := rfl
@[simp] theorem State.leaveWait_dt (s : State) : (s.leaveWait).dt = s.dt := rfl
@[simp] theorem State.leaveWait_st (s : State) : (s.leaveWait).st = s.st := rfl
@[simp] theorem State.leaveWait_keys (s : State) : (s.leaveWait).keys = s.keys := rfl
@[simp] theorem State.leaveWait_faulted (s : State) : (s.leaveWait).faulted = s.faulted := rfl
@[simp] theorem State.leaveWait_faultCause (s : State) : (s.leaveWait).faultCause = s.faultCause := rfl
@[simp] theorem State.leaveWait_faultOp (s : State) : (s.leaveWait).faultOp = s.faultOp := rfl
@[simp] theorem State.leaveWait_faultAddr (s : State) : (s.leaveWait).faultAddr = s.faultAddr := rfl
@[simp] theorem State.leaveWait_faultPc (s : State) : (s.leaveWait).faultPc = s.faultPc := rfl
@[simp] theorem State.leaveWait_tickResult (s : State) : (s.leaveWait).tickResult = s.tickResult := rfl
@[simp] theorem State.leaveWait_iAddModulus (s : State) : (s.leaveWait).iAddModulus = s.iAddModulus := rfl
@[simp] theorem State.leaveWait_draws (s : State) : (s.leaveWait).draws = s.draws := rfl
@[simp] theorem State.leaveWait_events (s : State) : (s.leaveWait).events = s.events := rfl
@[simp] theorem State.leaveWait_reg (s : State) (r : RegIndex) : (s.leaveWait).reg r = s.reg r := rfl
@[simp] theorem State.leaveWait_byteAt (s : State) (n : Nat) : (s.leaveWait).byteAt n = s.byteAt n := rfl
@[simp] theorem State.leaveWait_pixel (s : State) (r : Fin 32) (c' : Fin 64) : (s.leaveWait).pixel r c' = s.pixel r c' := rfl
@[simp] theorem State.leaveWait_key (s : State) (k' : Fin 16) : (s.leaveWait).key k' = s.key k' := rfl

/-! ### countDraw -/

@[simp] theorem State.countDraw_v (s : State) : (s.countDraw).v = s.v := rfl
@[simp] theorem State.countDraw_pc (s : State) : (s.countDraw).pc = s.pc := rfl
@[simp] theorem State.countDraw_i (s : State) : (s.countDraw).i = s.i := rfl
@[simp] theorem State.countDraw_sp (s : State) : (s.countDraw).sp = s.sp := rfl
@[simp] theorem State.countDraw_stack (s : State) : (s.countDraw).stack = s.stack := rfl
@[simp] theorem State.countDraw_wait (s : State) : (s.countDraw).wait = s.wait := rfl
@[simp] theorem State.countDraw_waitReg (s : State) : (s.countDraw).waitReg = s.waitReg := rfl
@[simp] theorem State.countDraw_mem (s : State) : (s.countDraw).mem = s.mem := rfl
@[simp] theorem State.countDraw_fb (s : State) : (s.countDraw).fb = s.fb := rfl
@[simp] theorem State.countDraw_dt (s : State) : (s.countDraw).dt = s.dt := rfl
@[simp] theorem State.countDraw_st (s : State) : (s.countDraw).st = s.st := rfl
@[simp] theorem State.countDraw_keys (s : State) : (s.countDraw).keys = s.keys := rfl
@[simp] theorem State.countDraw_faulted (s : State) : (s.countDraw).faulted = s.faulted := rfl
@[simp] theorem State.countDraw_faultCause (s : State) : (s.countDraw).faultCause = s.faultCause := rfl
@[simp] theorem State.countDraw_faultOp (s : State) : (s.countDraw).faultOp = s.faultOp := rfl
@[simp] theorem State.countDraw_faultAddr (s : State) : (s.countDraw).faultAddr = s.faultAddr := rfl
@[simp] theorem State.countDraw_faultPc (s : State) : (s.countDraw).faultPc = s.faultPc := rfl
@[simp] theorem State.countDraw_tickResult (s : State) : (s.countDraw).tickResult = s.tickResult := rfl
@[simp] theorem State.countDraw_iAddModulus (s : State) : (s.countDraw).iAddModulus = s.iAddModulus := rfl
@[simp] theorem State.countDraw_draws (s : State) : (s.countDraw).draws = s.draws + 1 := rfl
@[simp] theorem State.countDraw_events (s : State) : (s.countDraw).events = s.events := rfl
@[simp] theorem State.countDraw_reg (s : State) (r : RegIndex) : (s.countDraw).reg r = s.reg r := rfl
@[simp] theorem State.countDraw_byteAt (s : State) (n : Nat) : (s.countDraw).byteAt n = s.byteAt n := rfl
@[simp] theorem State.countDraw_pixel (s : State) (r : Fin 32) (c' : Fin 64) : (s.countDraw).pixel r c' = s.pixel r c' := rfl
@[simp] theorem State.countDraw_key (s : State) (k' : Fin 16) : (s.countDraw).key k' = s.key k' := rfl

/-! ### setTickResult -/

@[simp] theorem State.setTickResult_v (s : State) (res : TickResult) : (s.setTickResult res).v = s.v := rfl
@[simp] theorem State.setTickResult_pc (s : State) (res : TickResult) : (s.setTickResult res).pc = s.pc := rfl
@[simp] theorem State.setTickResult_i (s : State) (res : TickResult) : (s.setTickResult res).i = s.i := rfl
@[simp] theorem State.setTickResult_sp (s : State) (res : TickResult) : (s.setTickResult res).sp = s.sp := rfl
@[simp] theorem State.setTickResult_stack (s : State) (res : TickResult) : (s.setTickResult res).stack = s.stack := rfl
@[simp] theorem State.setTickResult_wait (s : State) (res : TickResult) : (s.setTickResult res).wait = s.wait := rfl
@[simp] theorem State.setTickResult_waitReg (s : State) (res : TickResult) : (s.setTickResult res).waitReg = s.waitReg := rfl
@[simp] theorem State.setTickResult_mem (s : State) (res : TickResult) : (s.setTickResult res).mem = s.mem := rfl
@[simp] theorem State.setTickResult_fb (s : State) (res : TickResult) : (s.setTickResult res).fb = s.fb := rfl
@[simp] theorem State.setTickResult_dt (s : State) (res : TickResult) : (s.setTickResult res).dt = s.dt := rfl
@[simp] theorem State.setTickResult_st (s : State) (res : TickResult) : (s.setTickResult res).st = s.st := rfl
@[simp] theorem State.setTickResult_keys (s : State) (res : TickResult) : (s.setTickResult res).keys = s.keys := rfl
@[simp] theorem State.setTickResult_faulted (s : State) (res : TickResult) : (s.setTickResult res).faulted = s.faulted := rfl
@[simp] theorem State.setTickResult_faultCause (s : State) (res : TickResult) : (s.setTickResult res).faultCause = s.faultCause := rfl
@[simp] theorem State.setTickResult_faultOp (s : State) (res : TickResult) : (s.setTickResult res).faultOp = s.faultOp := rfl
@[simp] theorem State.setTickResult_faultAddr (s : State) (res : TickResult) : (s.setTickResult res).faultAddr = s.faultAddr := rfl
@[simp] theorem State.setTickResult_faultPc (s : State) (res : TickResult) : (s.setTickResult res).faultPc = s.faultPc := rfl
@[simp] theorem State.setTickResult_tickResult (s : State) (res : TickResult) : (s.setTickResult res).tickResult = some res := rfl
@[simp] theorem State.setTickResult_iAddModulus (s : State) (res : TickResult) : (s.setTickResult res).iAddModulus = s.iAddModulus := rfl
@[simp] theorem State.setTickResult_draws (s : State) (res : TickResult) : (s.setTickResult res).draws = s.draws := rfl
@[simp] theorem State.setTickResult_events (s : State) (res : TickResult) : (s.setTickResult res).events = s.events := rfl
@[simp] theorem State.setTickResult_reg (s : State) (res : TickResult) (r : RegIndex) : (s.setTickResult res).reg r = s.reg r := rfl
@[simp] theorem State.setTickResult_byteAt (s : State) (res : TickResult) (n : Nat) : (s.setTickResult res).byteAt n = s.byteAt n := rfl
@[simp] theorem State.setTickResult_pixel (s : State) (res : TickResult) (r : Fin 32) (c' : Fin 64) : (s.setTickResult res).pixel r c' = s.pixel r c' := rfl
@[simp] theorem State.setTickResult_key (s : State) (res : TickResult) (k' : Fin 16) : (s.setTickResult res).key k' = s.key k' := rfl

/-! ### withEvents -/

@[simp] theorem State.withEvents_v (s : State) (es : List Event) : (s.withEvents es).v = s.v := rfl
@[simp] theorem State.withEvents_pc (s : State) (es : List Event) : (s.withEvents es).pc = s.pc := rfl
@[simp] theorem State.withEvents_i (s : State) (es : List Event) : (s.withEvents es).i = s.i := rfl
@[simp] theorem State.withEvents_sp (s : State) (es : List Event) : (s.withEvents es).sp = s.sp := rfl
@[simp] theorem State.withEvents_stack (s : State) (es : List Event) : (s.withEvents es).stack = s.stack := rfl
@[simp] theorem State.withEvents_wait (s : State) (es : List Event) : (s.withEvents es).wait = s.wait := rfl
@[simp] theorem State.withEvents_waitReg (s : State) (es : List Event) : (s.withEvents es).waitReg = s.waitReg := rfl
@[simp] theorem State.withEvents_mem (s : State) (es : List Event) : (s.withEvents es).mem = s.mem := rfl
@[simp] theorem State.withEvents_fb (s : State) (es : List Event) : (s.withEvents es).fb = s.fb := rfl
@[simp] theorem State.withEvents_dt (s : State) (es : List Event) : (s.withEvents es).dt = s.dt := rfl
@[simp] theorem State.withEvents_st (s : State) (es : List Event) : (s.withEvents es).st = s.st := rfl
@[simp] theorem State.withEvents_keys (s : State) (es : List Event) : (s.withEvents es).keys = s.keys := rfl
@[simp] theorem State.withEvents_faulted (s : State) (es : List Event) : (s.withEvents es).faulted = s.faulted := rfl
@[simp] theorem State.withEvents_faultCause (s : State) (es : List Event) : (s.withEvents es).faultCause = s.faultCause := rfl
@[simp] theorem State.withEvents_faultOp (s : State) (es : List Event) : (s.withEvents es).faultOp = s.faultOp := rfl
@[simp] theorem State.withEvents_faultAddr (s : State) (es : List Event) : (s.withEvents es).faultAddr = s.faultAddr := rfl
@[simp] theorem State.withEvents_faultPc (s : State) (es : List Event) : (s.withEvents es).faultPc = s.faultPc := rfl
@[simp] theorem State.withEvents_tickResult (s : State) (es : List Event) : (s.withEvents es).tickResult = s.tickResult := rfl
@[simp] theorem State.withEvents_iAddModulus (s : State) (es : List Event) : (s.withEvents es).iAddModulus = s.iAddModulus := rfl
@[simp] theorem State.withEvents_draws (s : State) (es : List Event) : (s.withEvents es).draws = s.draws := rfl
@[simp] theorem State.withEvents_events (s : State) (es : List Event) : (s.withEvents es).events = es := rfl
@[simp] theorem State.withEvents_reg (s : State) (es : List Event) (r : RegIndex) : (s.withEvents es).reg r = s.reg r := rfl
@[simp] theorem State.withEvents_byteAt (s : State) (es : List Event) (n : Nat) : (s.withEvents es).byteAt n = s.byteAt n := rfl
@[simp] theorem State.withEvents_pixel (s : State) (es : List Event) (r : Fin 32) (c' : Fin 64) : (s.withEvents es).pixel r c' = s.pixel r c' := rfl
@[simp] theorem State.withEvents_key (s : State) (es : List Event) (k' : Fin 16) : (s.withEvents es).key k' = s.key k' := rfl

/-! ### raiseFault -/

@[simp] theorem State.raiseFault_v (s : State) (c : FaultCause) (info : Nat) (op pc0 : Word) : (s.raiseFault c info op pc0).v = s.v := rfl
@[simp] theorem State.raiseFault_pc (s : State) (c : FaultCause) (info : Nat) (op pc0 : Word) : (s.raiseFault c info op pc0).pc = s.pc := rfl
@[simp] theorem State.raiseFault_i (s : State) (c : FaultCause) (info : Nat) (op pc0 : Word) : (s.raiseFault c info op pc0).i = s.i := rfl
@[simp] theorem State.raiseFault_sp (s : State) (c : FaultCause) (info : Nat) (op pc0 : Word) : (s.raiseFault c info op pc0).sp = s.sp := rfl
@[simp] theorem State.raiseFault_stack (s : State) (c : FaultCause) (info : Nat) (op pc0 : Word) : (s.raiseFault c info op pc0).stack = s.stack := rfl
@[simp] theorem State.raiseFault_wait (s : State) (c : FaultCause) (info : Nat) (op pc0 : Word) : (s.raiseFault c info op pc0).wait = s.wait := rfl
@[simp] theorem State.raiseFault_waitReg (s : State) (c : FaultCause) (info : Nat) (op pc0 : Word) : (s.raiseFault c info op pc0).waitReg = s.waitReg := rfl
@[simp] theorem State.raiseFault_mem (s : State) (c : FaultCause) (info : Nat) (op pc0 : Word) : (s.raiseFault c info op pc0).mem = s.mem := rfl
@[simp] theorem State.raiseFault_fb (s : State) (c : FaultCause) (info : Nat) (op pc0 : Word) : (s.raiseFault c info op pc0).fb = s.fb := rfl
@[simp] theorem State.raiseFault_dt (s : State) (c : FaultCause) (info : Nat) (op pc0 : Word) : (s.raiseFault c info op pc0).dt = s.dt := rfl
@[simp] theorem State.raiseFault_st (s : State) (c : FaultCause) (info : Nat) (op pc0 : Word) : (s.raiseFault c info op pc0).st = s.st := rfl
@[simp] theorem State.raiseFault_keys (s : State) (c : FaultCause) (info : Nat) (op pc0 : Word) : (s.raiseFault c info op pc0).keys = s.keys := rfl
@[simp] theorem State.raiseFault_faulted (s : State) (c : FaultCause) (info : Nat) (op pc0 : Word) : (s.raiseFault c info op pc0).faulted = true := rfl
@[simp] theorem State.raiseFault_faultCause (s : State) (c : FaultCause) (info : Nat) (op pc0 : Word) : (s.raiseFault c info op pc0).faultCause = c := rfl
@[simp] theorem State.raiseFault_faultOp (s : State) (c : FaultCause) (info : Nat) (op pc0 : Word) : (s.raiseFault c info op pc0).faultOp = op := rfl
@[simp] theorem State.raiseFault_faultAddr (s : State) (c : FaultCause) (info : Nat) (op pc0 : Word) : (s.raiseFault c info op pc0).faultAddr = BitVec.ofNat 16 info := rfl
@[simp] theorem State.raiseFault_faultPc (s : State) (c : FaultCause) (info : Nat) (op pc0 : Word) : (s.raiseFault c info op pc0).faultPc = pc0 := rfl
@[simp] theorem State.raiseFault_tickResult (s : State) (c : FaultCause) (info : Nat) (op pc0 : Word) : (s.raiseFault c info op pc0).tickResult = some (.fault c) := rfl
@[simp] theorem State.raiseFault_iAddModulus (s : State) (c : FaultCause) (info : Nat) (op pc0 : Word) : (s.raiseFault c info op pc0).iAddModulus = s.iAddModulus := rfl
@[simp] theorem State.raiseFault_draws (s : State) (c : FaultCause) (info : Nat) (op pc0 : Word) : (s.raiseFault c info op pc0).draws = s.draws := rfl
@[simp] theorem State.raiseFault_events (s : State) (c : FaultCause) (info : Nat) (op pc0 : Word) : (s.raiseFault c info op pc0).events = s.events := rfl
@[simp] theorem State.raiseFault_reg (s : State) (c : FaultCause) (info : Nat) (op pc0 : Word) (r : RegIndex) : (s.raiseFault c info op pc0).reg r = s.reg r := rfl
@[simp] theorem State.raiseFault_byteAt (s : State) (c : FaultCause) (info : Nat) (op pc0 : Word) (n : Nat) : (s.raiseFault c info op pc0).byteAt n = s.byteAt n := rfl
@[simp] theorem State.raiseFault_pixel (s : State) (c : FaultCause) (info : Nat) (op pc0 : Word) (r : Fin 32) (c' : Fin 64) : (s.raiseFault c info op pc0).pixel r c' = s.pixel r c' := rfl
@[simp] theorem State.raiseFault_key (s : State) (c : FaultCause) (info : Nat) (op pc0 : Word) (k' : Fin 16) : (s.raiseFault c info op pc0).key k' = s.key k' := rfl

/-! ### advance -/

@[simp] theorem State.advance_v (s : State) : (s.advance).v = s.v := rfl
@[simp] theorem State.advance_pc (s : State) : (s.advance).pc = s.pc + 2 := rfl
@[simp] theorem State.advance_i (s : State) : (s.advance).i = s.i := rfl
@[simp] theorem State.advance_sp (s : State) : (s.advance).sp = s.sp := rfl
@[simp] theorem State.advance_stack (s : State) : (s.advance).stack = s.stack := rfl
@[simp] theorem State.advance_wait (s : State) : (s.advance).wait = s.wait := rfl
@[simp] theorem State.advance_waitReg (s : State) : (s.advance).waitReg = s.waitReg := rfl
@[simp] theorem State.advance_mem (s : State) : (s.advance).mem = s.mem := rfl
@[simp] theorem State.advance_fb (s : State) : (s.advance).fb = s.fb := rfl
@[simp] theorem State.advance_dt (s : State) : (s.advance).dt = s.dt := rfl
@[simp] theorem State.advance_st (s : State) : (s.advance).st = s.st := rfl
@[simp] theorem State.advance_keys (s : State) : (s.advance).keys = s.keys := rfl
@[simp] theorem State.advance_faulted (s : State) : (s.advance).faulted = s.faulted := rfl
@[simp] theorem State.advance_faultCause (s : State) : (s.advance).faultCause = s.faultCause := rfl
@[simp] theorem State.advance_faultOp (s : State) : (s.advance).faultOp = s.faultOp := rfl
@[simp] theorem State.advance_faultAddr (s : State) : (s.advance).faultAddr = s.faultAddr := rfl
@[simp] theorem State.advance_faultPc (s : State) : (s.advance).faultPc = s.faultPc := rfl
@[simp] theorem State.advance_tickResult (s : State) : (s.advance).tickResult = some .ok := rfl
@[simp] theorem State.advance_iAddModulus (s : State) : (s.advance).iAddModulus = s.iAddModulus := rfl
@[simp] theorem State.advance_draws (s : State) : (s.advance).draws = s.draws := rfl
@[simp] theorem State.advance_events (s : State) : (s.advance).events = s.events := rfl
@[simp] theorem State.advance_reg (s : State) (r : RegIndex) : (s.advance).reg r = s.reg r := rfl
@[simp] theorem State.advance_byteAt (s : State) (n : Nat) : (s.advance).byteAt n = s.byteAt n := rfl
@[simp] theorem State.advance_pixel (s : State) (r : Fin 32) (c' : Fin 64) : (s.advance).pixel r c' = s.pixel r c' := rfl
@[simp] theorem State.advance_key (s : State) (k' : Fin 16) : (s.advance).key k' = s.key k' := rfl

/-! ### taken -/

@[simp] theorem State.taken_v (s : State) : (s.taken).v = s.v := rfl
@[simp] theorem State.taken_pc (s : State) : (s.taken).pc = s.pc := rfl
@[simp] theorem State.taken_i (s : State) : (s.taken).i = s.i := rfl
@[simp] theorem State.taken_sp (s : State) : (s.taken).sp = s.sp := rfl
@[simp] theorem State.taken_stack (s : State) : (s.taken).stack = s.stack := rfl
@[simp] theorem State.taken_wait (s : State) : (s.taken).wait = s.wait := rfl
@[simp] theorem State.taken_waitReg (s : State) : (s.taken).waitReg = s.waitReg := rfl
@[simp] theorem State.taken_mem (s : State) : (s.taken).mem = s.mem := rfl
@[simp] theorem State.taken_fb (s : State) : (s.taken).fb = s.fb := rfl
@[simp] theorem State.taken_dt (s : State) : (s.taken).dt = s.dt := rfl
@[simp] theorem State.taken_st (s : State) : (s.taken).st = s.st := rfl
@[simp] theorem State.taken_keys (s : State) : (s.taken).keys = s.keys := rfl
@[simp] theorem State.taken_faulted (s : State) : (s.taken).faulted = s.faulted := rfl
@[simp] theorem State.taken_faultCause (s : State) : (s.taken).faultCause = s.faultCause := rfl
@[simp] theorem State.taken_faultOp (s : State) : (s.taken).faultOp = s.faultOp := rfl
@[simp] theorem State.taken_faultAddr (s : State) : (s.taken).faultAddr = s.faultAddr := rfl
@[simp] theorem State.taken_faultPc (s : State) : (s.taken).faultPc = s.faultPc := rfl
@[simp] theorem State.taken_tickResult (s : State) : (s.taken).tickResult = s.tickResult := rfl
@[simp] theorem State.taken_iAddModulus (s : State) : (s.taken).iAddModulus = s.iAddModulus := rfl
@[simp] theorem State.taken_draws (s : State) : (s.taken).draws = s.draws := rfl
@[simp] theorem State.taken_events (s : State) : (s.taken).events = s.events.tail := rfl
@[simp] theorem State.taken_reg (s : State) (r : RegIndex) : (s.taken).reg r = s.reg r := rfl
@[simp] theorem State.taken_byteAt (s : State) (n : Nat) : (s.taken).byteAt n = s.byteAt n := rfl
@[simp] theorem State.taken_pixel (s : State) (r : Fin 32) (c' : Fin 64) : (s.taken).pixel r c' = s.pixel r c' := rfl
@[simp] theorem State.taken_key (s : State) (k' : Fin 16) : (s.taken).key k' = s.key k' := rfl

/-! ### reset -/

@[simp] theorem State.reset_pc : State.reset.pc = 0x0200 := rfl
@[simp] theorem State.reset_i : State.reset.i = 0x0000 := rfl
@[simp] theorem State.reset_sp : State.reset.sp = 0x00 := rfl
@[simp] theorem State.reset_wait : State.reset.wait = false := rfl
@[simp] theorem State.reset_waitReg : State.reset.waitReg = 0 := rfl
@[simp] theorem State.reset_mem : State.reset.mem = [] := rfl
@[simp] theorem State.reset_dt : State.reset.dt = 0x00 := rfl
@[simp] theorem State.reset_st : State.reset.st = 0x00 := rfl
@[simp] theorem State.reset_faulted : State.reset.faulted = false := rfl
@[simp] theorem State.reset_faultCause : State.reset.faultCause = .none := rfl
@[simp] theorem State.reset_faultOp : State.reset.faultOp = 0x0000 := rfl
@[simp] theorem State.reset_faultAddr : State.reset.faultAddr = 0x0000 := rfl
@[simp] theorem State.reset_faultPc : State.reset.faultPc = 0x0000 := rfl
@[simp] theorem State.reset_tickResult : State.reset.tickResult = none := rfl
@[simp] theorem State.reset_iAddModulus : State.reset.iAddModulus = .m65535 := rfl
@[simp] theorem State.reset_events : State.reset.events = [] := rfl

@[simp] theorem resetMachine_v (l : Launch) (s : State) : (resetMachine l s).v = State.reset.v := rfl
@[simp] theorem resetMachine_pc (l : Launch) (s : State) : (resetMachine l s).pc = State.reset.pc := rfl
@[simp] theorem resetMachine_i (l : Launch) (s : State) : (resetMachine l s).i = State.reset.i := rfl
@[simp] theorem resetMachine_sp (l : Launch) (s : State) : (resetMachine l s).sp = State.reset.sp := rfl
@[simp] theorem resetMachine_stack (l : Launch) (s : State) : (resetMachine l s).stack = State.reset.stack := rfl
@[simp] theorem resetMachine_wait (l : Launch) (s : State) : (resetMachine l s).wait = State.reset.wait := rfl
@[simp] theorem resetMachine_waitReg (l : Launch) (s : State) : (resetMachine l s).waitReg = State.reset.waitReg := rfl
@[simp] theorem resetMachine_mem (l : Launch) (s : State) : (resetMachine l s).mem = memLoad l := rfl
@[simp] theorem resetMachine_fb (l : Launch) (s : State) : (resetMachine l s).fb = State.reset.fb := rfl
@[simp] theorem resetMachine_dt (l : Launch) (s : State) : (resetMachine l s).dt = State.reset.dt := rfl
@[simp] theorem resetMachine_st (l : Launch) (s : State) : (resetMachine l s).st = State.reset.st := rfl
@[simp] theorem resetMachine_keys (l : Launch) (s : State) : (resetMachine l s).keys = State.reset.keys := rfl
@[simp] theorem resetMachine_faulted (l : Launch) (s : State) : (resetMachine l s).faulted = State.reset.faulted := rfl
@[simp] theorem resetMachine_faultCause (l : Launch) (s : State) : (resetMachine l s).faultCause = State.reset.faultCause := rfl
@[simp] theorem resetMachine_faultOp (l : Launch) (s : State) : (resetMachine l s).faultOp = State.reset.faultOp := rfl
@[simp] theorem resetMachine_faultAddr (l : Launch) (s : State) : (resetMachine l s).faultAddr = State.reset.faultAddr := rfl
@[simp] theorem resetMachine_faultPc (l : Launch) (s : State) : (resetMachine l s).faultPc = State.reset.faultPc := rfl
@[simp] theorem resetMachine_tickResult (l : Launch) (s : State) : (resetMachine l s).tickResult = State.reset.tickResult := rfl
@[simp] theorem resetMachine_iAddModulus (l : Launch) (s : State) : (resetMachine l s).iAddModulus = l.iAddModulus := rfl
@[simp] theorem resetMachine_draws (l : Launch) (s : State) : (resetMachine l s).draws = s.draws := rfl
@[simp] theorem resetMachine_events (l : Launch) (s : State) : (resetMachine l s).events = s.events := rfl

end Sys2Proof.Machine
end

