-- ==== Sys2Proof/Laws/Display.lean ====
section
/-! SUPPORT. What drawing does to every pixel (43_display.md R130 to R134): one lemma for a pixel write, one for `DrawRow`, one
for the rows of a sprite. -/

namespace Sys2Proof.Machine

/-- A pixel write changes its pixel only. -/
@[simp] theorem Framebuffer.pixel_setPixel (fb : Framebuffer) (r r' : Fin 32) (c c' : Fin 64) (b : Bool) :
    (fb.setPixel r c b).pixel r' c' = if r' = r ∧ c' = c then b else fb.pixel r' c' := by
  by_cases hr : r' = r
  · subst hr
    by_cases hc : c' = c
    · subst hc; simp [Framebuffer.pixel, Framebuffer.setPixel]
    · have hv : c.val ≠ c'.val := fun e => hc (Fin.ext e.symm)
      simp [Framebuffer.pixel, Framebuffer.setPixel, hc, hv]
  · have hv : r.val ≠ r'.val := fun e => hr (Fin.ext e.symm)
    simp [Framebuffer.pixel, Framebuffer.setPixel, hr, hv]

@[simp] theorem Framebuffer.pixel_blank (r : Fin 32) (c : Fin 64) : Framebuffer.blank.pixel r c = false := by
  simp [Framebuffer.pixel, Framebuffer.blank]

/-- Two buffers with the same pixels are the same buffer. -/
theorem Framebuffer.ext_pixel (f g : Framebuffer) (h : ∀ r c, f.pixel r c = g.pixel r c) : f = g := by
  apply Vector.ext
  intro r hr
  apply Vector.ext
  intro c hc
  exact h ⟨r, hr⟩ ⟨c, hc⟩

/-- Whether the sprite byte `b`, drawn from column `x0`, has a 1 bit at column `c` (R132). -/
def rowBit (x0 : Nat) (b : Byte) (c : Fin 64) : Bool :=
  (List.range 8).any (fun i => colOf (x0 + i) == c && b.getLsbD (7 - i))

theorem colOf_inj (x0 i j : Nat) (hi : i < 8) (hj : j < 8) (h : colOf (x0 + i) = colOf (x0 + j)) : i = j := by
  have := congrArg Fin.val h
  simp only [colOf, Fin.ofNat] at this
  omega

theorem foldl_drawBit (x0 y0 : Nat) (b : Byte) (l : List Nat) (fb : Framebuffer) (coll : Bool)
    (hl : ∀ i ∈ l, i < 8) (hnd : l.Nodup) :
    (∀ r c, (l.foldl (drawBit x0 y0 b) (fb, coll)).1.pixel r c
      = (fb.pixel r c ^^ (r == rowOf y0 && l.any (fun i => colOf (x0 + i) == c && b.getLsbD (7 - i)))))
    ∧ (l.foldl (drawBit x0 y0 b) (fb, coll)).2
      = (coll || l.any (fun i => fb.pixel (rowOf y0) (colOf (x0 + i)) && b.getLsbD (7 - i))) := by
  induction l generalizing fb coll with
  | nil => simp
  | cons i l ih =>
    obtain ⟨hi, hnd⟩ := List.nodup_cons.mp hnd
    have hne : ∀ j ∈ l, colOf (x0 + j) ≠ colOf (x0 + i) := fun j hj e =>
      hi (colOf_inj x0 j i (hl j (by simp [hj])) (hl i (by simp)) e ▸ hj)
    simp only [List.foldl_cons]
    obtain ⟨h1, h2⟩ := ih (drawBit x0 y0 b (fb, coll) i).1 (drawBit x0 y0 b (fb, coll) i).2
      (fun j hj => hl j (by simp [hj])) hnd
    constructor
    · intro r c
      rw [h1]
      simp only [drawBit, Framebuffer.pixel_setPixel, List.any_cons]
      by_cases hr : r = rowOf y0
      · subst hr
        by_cases hc : c = colOf (x0 + i)
        · subst hc
          have : l.any (fun j => colOf (x0 + j) == colOf (x0 + i) && b.getLsbD (7 - j)) = false := by
            simp only [List.any_eq_false]
            intro j hj
            simp [hne j hj]
          simp [this]
        · have hc' : (colOf (x0 + i) == c) = false := by simp [Ne.symm hc]
          simp [hc, hc']
      · have hrf : (r == rowOf y0) = false := beq_eq_false_iff_ne.mpr hr
        simp [hr, hrf]
    · rw [h2]
      have hany : l.any (fun j => (drawBit x0 y0 b (fb, coll) i).1.pixel (rowOf y0) (colOf (x0 + j)) && b.getLsbD (7 - j))
          = l.any (fun j => fb.pixel (rowOf y0) (colOf (x0 + j)) && b.getLsbD (7 - j)) := by
        apply Bool.eq_iff_iff.mpr
        simp only [List.any_eq_true]
        refine exists_congr fun j => and_congr_right fun hj => ?_
        simp [drawBit, hne j hj]
      rw [hany]
      simp only [drawBit, List.any_cons]
      cases fb.pixel (rowOf y0) (colOf (x0 + i)) <;> cases b.getLsbD (7 - i) <;> cases coll <;> simp

/-- Everything `DrawRow` does: it toggles the pixels of its row where the byte has a 1 bit, and its collision bit says whether
one of them was on (R132). -/
theorem drawRow_spec (x0 y0 : Nat) (b : Byte) (fb : Framebuffer) :
    (∀ r c, (drawRow x0 y0 b fb).1.pixel r c = (fb.pixel r c ^^ (r == rowOf y0 && rowBit x0 b c)))
    ∧ (drawRow x0 y0 b fb).2
      = (List.range 8).any (fun i => fb.pixel (rowOf y0) (colOf (x0 + i)) && b.getLsbD (7 - i)) := by
  have h := foldl_drawBit x0 y0 b (List.range 8) fb false (fun i hi => List.mem_range.mp hi) List.nodup_range
  exact ⟨h.1, by rw [drawRow, h.2, Bool.false_or]⟩

/-- The collision bit of a row, by columns. -/
theorem drawRow_collision (x0 y0 : Nat) (b : Byte) (fb : Framebuffer) :
    (drawRow x0 y0 b fb).2 = true ↔ ∃ c, rowBit x0 b c = true ∧ fb.pixel (rowOf y0) c = true := by
  rw [(drawRow_spec x0 y0 b fb).2]
  simp only [List.any_eq_true, rowBit, Bool.and_eq_true, beq_iff_eq]
  constructor
  · rintro ⟨i, hi, hp, hb⟩
    exact ⟨_, ⟨i, hi, rfl, hb⟩, hp⟩
  · rintro ⟨_, ⟨i, hi, rfl, hb⟩, hp⟩
    exact ⟨i, hi, hp, hb⟩

/-- Whether the sprite of the given rows, drawn from column `x0` and row `y0`, has a 1 bit on pixel `(r, c)` (R133). -/
def spriteBit (x0 y0 : Nat) (rows : List Byte) (r : Fin 32) (c : Fin 64) : Bool :=
  (List.range rows.length).any (fun j => rowOf (y0 + j) == r && rowBit x0 (rows.getD j 0) c)

theorem spriteBit_cons (x0 y0 : Nat) (b : Byte) (rows : List Byte) (r : Fin 32) (c : Fin 64) :
    spriteBit x0 y0 (b :: rows) r c = ((rowOf y0 == r && rowBit x0 b c) || spriteBit x0 (y0 + 1) rows r c) := by
  simp only [spriteBit, List.length_cons, List.range_succ_eq_map, List.any_cons, List.any_map]
  congr 1
  apply Bool.eq_iff_iff.mpr
  simp only [List.any_eq_true]
  refine exists_congr fun j => and_congr_right fun _ => ?_
  simp [Nat.add_assoc, Nat.add_comm 1 j]

theorem rowOf_ne (y0 j : Nat) (hj : j < 31) : rowOf (y0 + 1 + j) ≠ rowOf y0 := by
  intro e
  have := congrArg Fin.val e
  simp only [rowOf, Fin.ofNat] at this
  omega

theorem spriteBit_below (x0 y0 : Nat) (rows : List Byte) (c : Fin 64) (h : rows.length ≤ 31) :
    spriteBit x0 (y0 + 1) rows (rowOf y0) c = false := by
  simp only [spriteBit, List.any_eq_false, List.mem_range]
  intro j hj
  simp [rowOf_ne y0 j (by omega)]

/-- Everything drawing a sprite of at most 32 rows does: it toggles the pixels where the sprite has a 1 bit, and its collision
bit says whether one of them was on (R133). -/
theorem drawRows_spec (x0 y0 : Nat) (rows : List Byte) (fb : Framebuffer) (h : rows.length ≤ 32) :
    (∀ r c, (drawRows x0 y0 rows fb).1.pixel r c = (fb.pixel r c ^^ spriteBit x0 y0 rows r c))
    ∧ ((drawRows x0 y0 rows fb).2 = true ↔ ∃ r c, spriteBit x0 y0 rows r c = true ∧ fb.pixel r c = true) := by
  induction rows generalizing y0 fb with
  | nil => simp [drawRows, spriteBit]
  | cons b rows ih =>
    simp only [List.length_cons] at h
    obtain ⟨h1, h2⟩ := ih (y0 + 1) (drawRow x0 y0 b fb).1 (by omega)
    have hrow := (drawRow_spec x0 y0 b fb).1
    constructor
    · intro r c
      simp only [drawRows]
      rw [h1, hrow, spriteBit_cons]
      by_cases hr : r = rowOf y0
      · subst hr
        simp [spriteBit_below x0 y0 rows c (by omega)]
      · have hrf : (r == rowOf y0) = false := beq_eq_false_iff_ne.mpr hr
        have hrf' : (rowOf y0 == r) = false := beq_eq_false_iff_ne.mpr (Ne.symm hr)
        simp [hrf, hrf']
    · simp only [drawRows, Bool.or_eq_true]
      rw [drawRow_collision, h2]
      constructor
      · rintro (⟨c, hb, hp⟩ | ⟨r, c, hb, hp⟩)
        · exact ⟨rowOf y0, c, by simp [spriteBit_cons, hb], hp⟩
        · have hr : r ≠ rowOf y0 := by
            rintro rfl
            simp [spriteBit_below x0 y0 rows c (by omega)] at hb
          refine ⟨r, c, by simp [spriteBit_cons, hb], ?_⟩
          rw [hrow, beq_eq_false_iff_ne.mpr hr] at hp
          simpa using hp
      · rintro ⟨r, c, hb, hp⟩
        rw [spriteBit_cons, Bool.or_eq_true, Bool.and_eq_true, beq_iff_eq] at hb
        rcases hb with ⟨rfl, hb⟩ | hb
        · exact .inl ⟨c, hb, hp⟩
        · have hr : r ≠ rowOf y0 := by
            rintro rfl
            simp [spriteBit_below x0 y0 rows c (by omega)] at hb
          exact .inr ⟨r, c, hb, by rw [hrow, beq_eq_false_iff_ne.mpr hr]; simpa using hp⟩

end Sys2Proof.Machine
end

