-- ==== Sys2Proof/Laws/Encoding.lean ====
section
/-! SUPPORT. The formats and their fields (30_encoding.md R64, R65): a field read from a format is the operand put there, and
the masks of R62 leave exactly the fixed parts. -/

namespace Sys2Proof

/-! ### Cutting a concatenation -/

theorem extract_high_of_three (f x : Nibble) (kk : Byte) : (f ++ x ++ kk : BitVec (4 + 4 + 8)).extractLsb' 8 4 = x := by
  apply BitVec.eq_of_getLsbD_eq
  intro i hi
  simp only [BitVec.getLsbD_extractLsb', BitVec.getLsbD_append, hi, decide_true, Bool.true_and]
  simp [hi]

theorem extract_low_of_three (f x : Nibble) (kk : Byte) : (f ++ x ++ kk : BitVec (4 + 4 + 8)).extractLsb' 0 8 = kk := by
  apply BitVec.eq_of_getLsbD_eq
  intro i hi
  simp only [BitVec.getLsbD_extractLsb', BitVec.getLsbD_append, hi, decide_true, Bool.true_and]
  simp [hi]

theorem extract_second_of_four (f x y n : Nibble) : (f ++ x ++ y ++ n : BitVec (4 + 4 + 4 + 4)).extractLsb' 8 4 = x := by
  apply BitVec.eq_of_getLsbD_eq
  intro i hi
  simp only [BitVec.getLsbD_extractLsb', BitVec.getLsbD_append, hi, decide_true, Bool.true_and]
  rw [if_neg (by omega), if_neg (by omega), if_pos (by omega)]
  congr 1
  omega

theorem extract_third_of_four (f x y n : Nibble) : (f ++ x ++ y ++ n : BitVec (4 + 4 + 4 + 4)).extractLsb' 4 4 = y := by
  apply BitVec.eq_of_getLsbD_eq
  intro i hi
  simp only [BitVec.getLsbD_extractLsb', BitVec.getLsbD_append, hi, decide_true, Bool.true_and]
  simp [hi]

theorem extract_fourth_of_four (f x y n : Nibble) : (f ++ x ++ y ++ n : BitVec (4 + 4 + 4 + 4)).extractLsb' 0 4 = n := by
  apply BitVec.eq_of_getLsbD_eq
  intro i hi
  simp only [BitVec.getLsbD_extractLsb', BitVec.getLsbD_append, hi, decide_true, Bool.true_and]
  simp [hi]

theorem extract_low_of_two (f : Nibble) (nnn : Addr12) : (f ++ nnn : BitVec (4 + 12)).extractLsb' 0 12 = nnn := by
  apply BitVec.eq_of_getLsbD_eq
  intro i hi
  simp only [BitVec.getLsbD_extractLsb', BitVec.getLsbD_append, hi, decide_true, Bool.true_and]
  simp [hi]

theorem nibble_and_ones : ∀ f : Nibble, f &&& 0xF#4 = f := by decide

/-! ### The fields of the formats (R65) -/

@[simp] theorem fieldNNN_formatA (f : Nibble) (nnn : Addr12) : fieldNNN (formatA f nnn) = nnn :=
  extract_low_of_two f nnn

@[simp] theorem fieldX_formatXK (f : Nibble) (x : RegIndex) (kk : Byte) : fieldX (formatXK f x kk) = x :=
  congrArg BitVec.toFin (extract_high_of_three f (BitVec.ofFin x) kk)

@[simp] theorem fieldKK_formatXK (f : Nibble) (x : RegIndex) (kk : Byte) : fieldKK (formatXK f x kk) = kk :=
  extract_low_of_three f (BitVec.ofFin x) kk

@[simp] theorem fieldX_formatXY (f : Nibble) (x y : RegIndex) (n : Nibble) : fieldX (formatXY f x y n) = x :=
  congrArg BitVec.toFin (extract_second_of_four f (BitVec.ofFin x) (BitVec.ofFin y) n)

@[simp] theorem fieldY_formatXY (f : Nibble) (x y : RegIndex) (n : Nibble) : fieldY (formatXY f x y n) = y :=
  congrArg BitVec.toFin (extract_third_of_four f (BitVec.ofFin x) (BitVec.ofFin y) n)

@[simp] theorem fieldN_formatXY (f : Nibble) (x y : RegIndex) (n : Nibble) : fieldN (formatXY f x y n) = n.toNat :=
  congrArg BitVec.toNat (extract_fourth_of_four f (BitVec.ofFin x) (BitVec.ofFin y) n)

@[simp] theorem fieldX_formatXF (f : Nibble) (x : RegIndex) (fn : Byte) : fieldX (formatXF f x fn) = x :=
  congrArg BitVec.toFin (extract_high_of_three f (BitVec.ofFin x) fn)

/-! ### What the masks leave (R62) -/

/-- Mask 0xF000 leaves the family of format A. -/
theorem formatA_and_family (f : Nibble) (nnn : Addr12) : formatA f nnn &&& 0xF000 = formatA f 0 := by
  show (f ++ nnn : BitVec (4 + 12)) &&& (0xF#4 ++ 0#12) = f ++ 0#12
  rw [BitVec.and_append, nibble_and_ones, BitVec.and_zero]

/-- Mask 0xF000 leaves the family of format XK. -/
theorem formatXK_and_family (f : Nibble) (x : RegIndex) (kk : Byte) : formatXK f x kk &&& 0xF000 = formatXK f 0 0 := by
  show (f ++ BitVec.ofFin x ++ kk : BitVec (4 + 4 + 8)) &&& ((0xF#4 ++ 0#4 : BitVec (4 + 4)) ++ 0#8) = f ++ 0#4 ++ 0#8
  rw [BitVec.and_append, BitVec.and_append, nibble_and_ones, BitVec.and_zero, BitVec.and_zero]

/-- Mask 0xF0FF leaves the family and the function byte of format XF. -/
theorem formatXF_and_function (f : Nibble) (x : RegIndex) (fn : Byte) :
    formatXF f x fn &&& 0xF0FF = formatXF f 0 fn := by
  show (f ++ BitVec.ofFin x ++ fn : BitVec (4 + 4 + 8)) &&& ((0xF#4 ++ 0#4 : BitVec (4 + 4)) ++ BitVec.allOnes 8)
    = f ++ 0#4 ++ fn
  rw [BitVec.and_append, BitVec.and_append, nibble_and_ones, BitVec.and_zero, BitVec.and_allOnes]

/-- Mask 0xF00F leaves the family and the low nibble of format XY. -/
theorem formatXY_and_low (f : Nibble) (x y : RegIndex) (n : Nibble) :
    formatXY f x y n &&& 0xF00F = formatXY f 0 0 n := by
  show (f ++ (BitVec.ofFin x : Nibble) ++ (BitVec.ofFin y : Nibble) ++ n : BitVec (4 + 4 + 4 + 4))
      &&& (((0xF#4 ++ 0#4 : BitVec (4 + 4)) ++ 0#4 : BitVec (4 + 4 + 4)) ++ 0xF#4) = f ++ 0#4 ++ 0#4 ++ n
  rw [BitVec.and_append, BitVec.and_append, BitVec.and_append, nibble_and_ones, nibble_and_ones, BitVec.and_zero,
    BitVec.and_zero]

/-- Mask 0xF000 leaves the family of format XYN. -/
theorem formatXY_and_family (f : Nibble) (x y : RegIndex) (n : Nibble) :
    formatXY f x y n &&& 0xF000 = formatXY f 0 0 0 := by
  show (f ++ (BitVec.ofFin x : Nibble) ++ (BitVec.ofFin y : Nibble) ++ n : BitVec (4 + 4 + 4 + 4))
      &&& (((0xF#4 ++ 0#4 : BitVec (4 + 4)) ++ 0#4 : BitVec (4 + 4 + 4)) ++ 0#4) = f ++ 0#4 ++ 0#4 ++ 0#4
  rw [BitVec.and_append, BitVec.and_append, BitVec.and_append, nibble_and_ones, BitVec.and_zero,
    BitVec.and_zero, BitVec.and_zero]

/-! ### Taking a word apart: every word is of every format with its own fields -/

theorem word_eq_formatA (op : Word) : op = formatA (op.extractLsb' 12 4) (fieldNNN op) := by
  apply BitVec.eq_of_getLsbD_eq
  intro i hi
  show op.getLsbD i = (op.extractLsb' 12 4 ++ op.extractLsb' 0 12 : BitVec (4 + 12)).getLsbD i
  rw [BitVec.getLsbD_append]
  by_cases h : i < 12
  · simp [h]
  · have h1 : i - 12 < 4 := by omega
    have h2 : 12 + (i - 12) = i := by omega
    simp [h, h1, h2]

theorem word_eq_formatXK (op : Word) : op = formatXK (op.extractLsb' 12 4) (fieldX op) (fieldKK op) := by
  apply BitVec.eq_of_getLsbD_eq
  intro i hi
  show op.getLsbD i = (op.extractLsb' 12 4 ++ op.extractLsb' 8 4 ++ op.extractLsb' 0 8 : BitVec (4 + 4 + 8)).getLsbD i
  rw [BitVec.getLsbD_append, BitVec.getLsbD_append]
  by_cases h : i < 8
  · simp [h]
  · by_cases h' : i - 8 < 4
    · have h2 : 8 + (i - 8) = i := by omega
      simp [h, h', h2]
    · have h1 : i - 8 - 4 < 4 := by omega
      have h2 : 12 + (i - 8 - 4) = i := by omega
      simp [h, h', h1, h2]

theorem word_eq_formatXY (op : Word) :
    op = formatXY (op.extractLsb' 12 4) (fieldX op) (fieldY op) (op.extractLsb' 0 4) := by
  apply BitVec.eq_of_getLsbD_eq
  intro i hi
  show op.getLsbD i = (op.extractLsb' 12 4 ++ op.extractLsb' 8 4 ++ op.extractLsb' 4 4 ++ op.extractLsb' 0 4
    : BitVec (4 + 4 + 4 + 4)).getLsbD i
  rw [BitVec.getLsbD_append, BitVec.getLsbD_append, BitVec.getLsbD_append]
  by_cases h : i < 4
  · simp [h]
  · by_cases h' : i - 4 < 4
    · have h2 : 4 + (i - 4) = i := by omega
      simp [h, h', h2]
    · by_cases h'' : i - 4 - 4 < 4
      · have h2 : 8 + (i - 4 - 4) = i := by omega
        simp [h, h', h'', h2]
      · have h1 : i - 4 - 4 - 4 < 4 := by omega
        have h2 : 12 + (i - 4 - 4 - 4) = i := by omega
        simp [h, h', h'', h1, h2]

/-! ### A word whose masked part is a format's fixed part is of that format -/

theorem formatA_family_inj : ∀ f g : Nibble, formatA f 0 = formatA g 0 → f = g := by decide

theorem formatXK_family_inj : ∀ f g : Nibble, formatXK f 0 0 = formatXK g 0 0 → f = g := by decide

theorem formatXY_family_inj : ∀ f g : Nibble, formatXY f 0 0 0 = formatXY g 0 0 0 → f = g := by decide

/-- Two joined fields of known widths can be taken apart. -/
theorem bits_append_inj {w v : Nat} {a c : BitVec w} {b d : BitVec v} (h : a ++ b = c ++ d) : a = c ∧ b = d := by
  have hn := congrArg BitVec.toNat h
  rw [BitVec.toNat_append, BitVec.toNat_append, Nat.shiftLeft_eq, Nat.shiftLeft_eq, Nat.mul_comm _ (2 ^ v),
    Nat.mul_comm _ (2 ^ v), ← Nat.two_pow_add_eq_or_of_lt b.isLt, ← Nat.two_pow_add_eq_or_of_lt d.isLt] at hn
  have hb : b.toNat = d.toNat := by
    have := congrArg (· % 2 ^ v) hn
    simpa [Nat.mul_add_mod, Nat.mod_eq_of_lt b.isLt, Nat.mod_eq_of_lt d.isLt] using this
  refine ⟨BitVec.eq_of_toNat_eq ?_, BitVec.eq_of_toNat_eq hb⟩
  rw [hb] at hn
  exact Nat.eq_of_mul_eq_mul_left (Nat.two_pow_pos v) (Nat.add_right_cancel hn)

/-- A word of format XY with two zero registers, taken apart. -/
theorem formatXY_low_inj (f n g m : Nibble) (h : formatXY f 0 0 n = formatXY g 0 0 m) : f = g ∧ n = m := by
  obtain ⟨h, hn⟩ := bits_append_inj h
  obtain ⟨h, -⟩ := bits_append_inj h
  exact ⟨(bits_append_inj h).1, hn⟩

/-- A word of format XF with a zero register, taken apart. -/
theorem formatXF_function_inj (f g : Nibble) (a b : Byte) (h : formatXF f 0 a = formatXF g 0 b) : f = g ∧ a = b := by
  obtain ⟨h, hb⟩ := bits_append_inj h
  exact ⟨(bits_append_inj h).1, hb⟩

/-- Mask 0xF000, format A. -/
theorem eq_formatA_of_family (op : Word) (f : Nibble) (h : op &&& 0xF000 = formatA f 0) :
    op = formatA f (fieldNNN op) := by
  have hw := word_eq_formatA op
  rw [hw, formatA_and_family] at h
  rwa [formatA_family_inj _ f h] at hw

/-- Mask 0xF000, format XK. -/
theorem eq_formatXK_of_family (op : Word) (f : Nibble) (h : op &&& 0xF000 = formatXK f 0 0) :
    op = formatXK f (fieldX op) (fieldKK op) := by
  have hw := word_eq_formatXK op
  rw [hw, formatXK_and_family] at h
  rwa [formatXK_family_inj _ f h] at hw

/-- Mask 0xF000, format XYN. -/
theorem eq_formatXY_of_family (op : Word) (f : Nibble) (h : op &&& 0xF000 = formatXY f 0 0 0) :
    op = formatXY f (fieldX op) (fieldY op) (BitVec.ofNat 4 (fieldN op)) := by
  have hw := word_eq_formatXY op
  have hn : BitVec.ofNat 4 (fieldN op) = op.extractLsb' 0 4 := BitVec.eq_of_toNat_eq (by
    rw [BitVec.toNat_ofNat]
    exact Nat.mod_eq_of_lt (op.extractLsb' 0 4).isLt)
  rw [hn]
  rw [hw, formatXY_and_family] at h
  rwa [formatXY_family_inj _ f h] at hw

/-- Mask 0xF00F, format XY. -/
theorem eq_formatXY_of_low (op : Word) (f n : Nibble) (h : op &&& 0xF00F = formatXY f 0 0 n) :
    op = formatXY f (fieldX op) (fieldY op) n := by
  have hw := word_eq_formatXY op
  rw [hw, formatXY_and_low] at h
  obtain ⟨hf, hn⟩ := formatXY_low_inj _ _ _ _ h
  rwa [hf, hn] at hw

/-- Mask 0xF0FF, format XF. -/
theorem eq_formatXF_of_function (op : Word) (f : Nibble) (fn : Byte) (h : op &&& 0xF0FF = formatXF f 0 fn) :
    op = formatXF f (fieldX op) fn := by
  have hw : op = formatXF (op.extractLsb' 12 4) (fieldX op) (fieldKK op) := word_eq_formatXK op
  rw [hw, formatXF_and_function] at h
  obtain ⟨hf, hk⟩ := formatXF_function_inj _ _ _ _ h
  rwa [hf, hk] at hw

/-! ### The decoder as the first row that accepts -/

/-- Everything `decode` can answer: the instruction of a row of the map that accepts the word, or the rejection of the very
word, which no row accepts. -/
theorem decode_cases (op : Word) :
    (∃ r ∈ opcodeTable, r.accepts op = true ∧ decode op = .ok (r.build op))
    ∨ ((∀ r ∈ opcodeTable, r.accepts op = false) ∧ decode op = .error (.unsupported op)) := by
  unfold decode
  cases h : opcodeTable.find? (·.accepts op) with
  | some r =>
    exact .inl ⟨r, List.mem_of_find?_eq_some h, by simpa using List.find?_some h, rfl⟩
  | none =>
    refine .inr ⟨fun r hr => ?_, rfl⟩
    simpa using List.find?_eq_none.mp h r hr

end Sys2Proof
end

