-- ==== Sys2Proof/Laws/Memory.lean ====
section
/-! SUPPORT. The laws of memory (20_memory.md R42, R43, R50, R51): reading after writing, and that every operation keeps the
canonical form. -/

namespace Sys2Proof.Machine

@[simp] theorem Memory.read_nil (a : Nat) : Memory.read [] a = resetByte a := rfl

theorem Memory.read_cons (k : Nat) (b : Byte) (m : Memory) (a : Nat) :
    Memory.read ((k, b) :: m) a = if k = a then b else Memory.read m a := rfl

theorem Memory.read_filter_ne (m : Memory) (a c : Nat) (h : c ≠ a) :
    Memory.read (m.filter (fun d => d.1 != a)) c = Memory.read m c := by
  induction m with
  | nil => rfl
  | cons d m ih =>
    obtain ⟨k, b⟩ := d
    by_cases hk : k = a
    · have hkc : k ≠ c := fun e => h (e ▸ hk)
      simp [hk, Memory.read_cons, ih, h.symm]
    · simp [hk, Memory.read_cons, ih]

theorem Memory.read_filter_same (m : Memory) (a : Nat) :
    Memory.read (m.filter (fun d => d.1 != a)) a = resetByte a := by
  induction m with
  | nil => rfl
  | cons d m ih =>
    obtain ⟨k, b⟩ := d
    by_cases hk : k = a <;> simp [hk, Memory.read_cons, ih]

theorem Memory.read_place (m : Memory) (a : Nat) (v : Byte) (c : Nat) (h : ∀ d ∈ m, d.1 ≠ a) :
    Memory.read (Memory.place (a, v) m) c = if a = c then v else Memory.read m c := by
  induction m with
  | nil => rfl
  | cons d m ih =>
    obtain ⟨k, b⟩ := d
    have hk : k ≠ a := h (k, b) (by simp)
    have ih := ih (fun e he => h e (by simp [he]))
    unfold Memory.place
    split
    · simp [Memory.read_cons]
    · rw [Memory.read_cons, Memory.read_cons, ih]
      by_cases hkc : k = c
      · have : a ≠ c := fun e => hk (hkc.trans e.symm)
        simp [hkc, this]
      · simp [hkc]

/-- What one write does to every address (R43, R50). -/
theorem Memory.read_write (m : Memory) (a : Nat) (v : Byte) (c : Nat) :
    Memory.read (Memory.write m a v) c = if c = a then v else Memory.read m c := by
  have hne : ∀ d ∈ m.filter (fun d => d.1 != a), d.1 ≠ a := by
    intro d hd
    simpa using (List.mem_filter.mp hd).2
  unfold Memory.write
  by_cases hv : v = resetByte a
  · by_cases hc : c = a
    · subst hc; simp [← hv, Memory.read_filter_same]
    · simp [← hv, hc, Memory.read_filter_ne m a c hc]
  · by_cases hc : c = a
    · subst hc; simp [hv, Memory.read_place _ _ _ _ hne]
    · simp [hv, hc, Ne.symm hc, Memory.read_place _ _ _ _ hne, Memory.read_filter_ne m a c hc]

/-- What a run of writes does to every address: the bytes stand at rising addresses, everything else is as before. -/
theorem Memory.read_writeBytes (bytes : List Byte) (m : Memory) (a c : Nat) :
    Memory.read (Memory.writeBytes m a bytes) c
      = if a ≤ c then (bytes[c - a]?).getD (Memory.read m c) else Memory.read m c := by
  induction bytes generalizing m a with
  | nil => simp [Memory.writeBytes]
  | cons b bytes ih =>
    rw [Memory.writeBytes, ih, Memory.read_write]
    by_cases h1 : a + 1 ≤ c
    · have hca : c - a = (c - (a + 1)) + 1 := by omega
      have : c ≠ a := by omega
      have h2 : a ≤ c := by omega
      simp [h1, h2, hca, this]
    · by_cases h2 : c = a
      · subst h2; simp
      · have h3 : ¬ a ≤ c := by omega
        simp [h1, h2, h3]

@[simp] theorem Memory.length_readBytes (m : Memory) (a n : Nat) : (Memory.readBytes m a n).length = n := by
  induction n generalizing a with
  | zero => rfl
  | succ n ih => simp [Memory.readBytes, ih]

/-- The `j`-th byte of a run of reads (R125, R133). -/
theorem Memory.getElem?_readBytes (m : Memory) (a n j : Nat) :
    (Memory.readBytes m a n)[j]? = if j < n then some (Memory.read m (a + j)) else none := by
  induction n generalizing a j with
  | zero => simp [Memory.readBytes]
  | succ n ih =>
    cases j with
    | zero => simp [Memory.readBytes]
    | succ j => simp [Memory.readBytes, ih, Nat.add_assoc, Nat.add_comm 1 j]

/-! ### The canonical form -/

theorem Memory.wf_nil : Memory.wf [] := by simp [Memory.wf]

theorem Memory.wf_filter (m : Memory) (p : Host.Cell → Bool) (h : Memory.wf m) : Memory.wf (m.filter p) :=
  ⟨h.1.filter p, fun c hc => h.2 c (List.mem_filter.mp hc).1⟩

theorem Memory.mem_place (c d : Host.Cell) (m : Memory) : d ∈ Memory.place c m ↔ d = c ∨ d ∈ m := by
  induction m with
  | nil => simp [Memory.place]
  | cons e m ih =>
    unfold Memory.place
    split
    · simp
    · simp [ih, or_left_comm]

theorem Memory.pairwise_place (c : Host.Cell) (m : Memory) (h : m.Pairwise (fun c d => c.1 < d.1))
    (hne : ∀ d ∈ m, d.1 ≠ c.1) : (Memory.place c m).Pairwise (fun c d => c.1 < d.1) := by
  induction m with
  | nil => simp [Memory.place]
  | cons e m ih =>
    obtain ⟨he, hm⟩ := List.pairwise_cons.mp h
    unfold Memory.place
    split
    next hlt =>
      refine List.pairwise_cons.mpr ⟨fun d hd => ?_, h⟩
      rcases List.mem_cons.mp hd with rfl | hd
      · exact hlt
      · exact hlt.trans (he d hd)
    next hge =>
      have hec : e.1 ≠ c.1 := hne e (by simp)
      refine List.pairwise_cons.mpr ⟨fun d hd => ?_, ih hm (fun d hd => hne d (by simp [hd]))⟩
      rcases (Memory.mem_place c d m).mp hd with rfl | hd
      · omega
      · exact he d hd

/-- A write inside the address space keeps the canonical form. -/
theorem Memory.wf_write (m : Memory) (a : Nat) (v : Byte) (h : Memory.wf m) (ha : a < Config.memSize) :
    Memory.wf (Memory.write m a v) := by
  have hf := Memory.wf_filter m (fun d => d.1 != a) h
  unfold Memory.write
  by_cases hv : v = resetByte a
  · simpa [← hv] using hf
  · simp only [hv, if_false]
    refine ⟨Memory.pairwise_place _ _ hf.1 ?_, fun d hd => ?_⟩
    · intro d hd
      simpa using (List.mem_filter.mp hd).2
    · rcases (Memory.mem_place _ d _).mp hd with rfl | hd
      · exact ⟨ha, hv⟩
      · exact hf.2 d hd

/-- A run of writes inside the address space keeps the canonical form. -/
theorem Memory.wf_writeBytes (bytes : List Byte) (m : Memory) (a : Nat) (h : Memory.wf m)
    (ha : a + bytes.length ≤ Config.memSize) : Memory.wf (Memory.writeBytes m a bytes) := by
  induction bytes generalizing m a with
  | nil => exact h
  | cons b bytes ih =>
    simp only [List.length_cons] at ha
    exact ih _ _ (Memory.wf_write m a b h (by omega)) (by omega)

/-- The load operation of RESET gives a memory in canonical form (R46). -/
theorem wf_memLoad (l : Launch) : Memory.wf (memLoad l) := by
  have hfont : l.font.toList.length = 80 := by simp
  have hrom : (l.rom.take Config.progMax).length ≤ Config.progMax := by simp [List.length_take]
  refine Memory.wf_writeBytes _ _ _ (Memory.wf_writeBytes _ _ _ Memory.wf_nil ?_) ?_
  · rw [hfont]; decide
  · simp only [Config.progBase, Config.memSize, Config.progMax] at hrom ⊢
    omega

theorem wf_reset : Memory.wf State.reset.mem := Memory.wf_nil

/-- Two memories in canonical form that read alike everywhere are the same list. -/
theorem Memory.wf_ext (m n : Memory) (hm : Memory.wf m) (hn : Memory.wf n)
    (h : ∀ a, Memory.read m a = Memory.read n a) : m = n := by
  have key : ∀ (m : Memory), Memory.wf m → ∀ c : Host.Cell, c ∈ m ↔ Memory.read m c.1 = c.2 ∧ c.2 ≠ resetByte c.1 := by
    intro m hm
    induction m with
    | nil => intro c; simp; intro e; exact e.symm
    | cons d m ih =>
      obtain ⟨k, b⟩ := d
      obtain ⟨hlt, hp⟩ := List.pairwise_cons.mp hm.1
      have ih := ih ⟨hp, fun c hc => hm.2 c (by simp [hc])⟩
      have hd := (hm.2 (k, b) (by simp)).2
      rintro ⟨a, v⟩
      rw [Memory.read_cons]
      by_cases hk : k = a
      · subst hk
        have hnot : ∀ w, (k, w) ∉ m := fun w hw => absurd (hlt _ hw) (lt_irrefl _)
        simp only [List.mem_cons, Prod.mk.injEq, true_and, if_true, hnot, or_false]
        exact ⟨fun e => ⟨e.symm, by rw [e]; exact hd⟩, fun e => e.1.symm⟩
      · have : ¬ (a = k) := fun e => hk e.symm
        simpa [hk, this] using ih (a, v)
  have hset : ∀ c, c ∈ m ↔ c ∈ n := by
    intro c
    rw [key m hm c, key n hn c, h]
  have hnd : ∀ l : Memory, l.Pairwise (fun c d => c.1 < d.1) → l.Nodup := fun l hl =>
    hl.imp (fun {c d} hcd e => by simp [e] at hcd)
  have hperm : m.Perm n := (List.perm_ext_iff_of_nodup (hnd m hm.1) (hnd n hn.1)).mpr hset
  exact hperm.eq_of_pairwise (fun c d _ _ h1 h2 => absurd (h1.trans h2) (lt_irrefl _)) hm.1 hn.1

end Sys2Proof.Machine
end

