-- ==== Sys2Proof/Laws/Registers.lean ====
section
/-! SUPPORT. What the register operations do to every register: one lemma per operation (10_state.md R10, 41_alu.md R112,
42_index_memory.md R125), and the call stack (R83, R84). -/

namespace Sys2Proof.Machine

/-- A write changes its register only. -/
@[simp] theorem State.reg_writeReg (s : State) (x : RegIndex) (b : Byte) (r : RegIndex) :
    (s.writeReg x b).reg r = if r = x then b else s.reg r := by
  by_cases h : r = x
  · subst h; simp [State.reg, State.writeReg]
  · have hv : x.val ≠ r.val := fun e => h (Fin.ext e.symm)
    simp [State.reg, State.writeReg, h, hv]

/-- The flag is what VF ends with, whatever the destination (R112). -/
theorem State.reg_writeResultThenFlag (s : State) (x : RegIndex) (b f : Byte) (r : RegIndex) :
    (s.writeResultThenFlag x b f).reg r = if r = vf then f else if r = x then b else s.reg r := by
  simp [State.writeResultThenFlag]

theorem getElem_writeRun (bytes : List Byte) (v : Vector Byte 16) (k r : Nat) (hr : r < 16) :
    (writeRun v k bytes)[r] = if k ≤ r then (bytes[r - k]?).getD v[r] else v[r] := by
  induction bytes generalizing v k with
  | nil => simp [writeRun]
  | cons b bytes ih =>
    rw [writeRun, ih, Vector.getElem_setIfInBounds]
    by_cases h1 : k + 1 ≤ r
    · have hkr : r - k = (r - (k + 1)) + 1 := by omega
      have hne : k ≠ r := by omega
      have h2 : k ≤ r := by omega
      simp [h1, h2, hkr, hne]
    · by_cases h2 : k = r
      · subst h2; simp
      · have h3 : ¬ k ≤ r := by omega
        simp [h1, h2, h3]

/-- A run of loads changes the registers it reaches, and those only (R125). -/
theorem State.reg_loadRegs (s : State) (bytes : List Byte) (r : RegIndex) :
    (s.loadRegs bytes).reg r = (bytes[r.val]?).getD (s.reg r) := by
  simp [State.reg, State.loadRegs, getElem_writeRun]

@[simp] theorem State.length_regsUpTo (s : State) (x : RegIndex) : (s.regsUpTo x).length = x.val + 1 := by
  simp [State.regsUpTo]

/-- The bytes Fx55 stores are the registers up to `x` (R124). -/
theorem State.getElem?_regsUpTo (s : State) (x : RegIndex) (j : Nat) :
    (s.regsUpTo x)[j]? = if h : j < 16 then (if j ≤ x.val then some (s.reg ⟨j, h⟩) else none) else none := by
  by_cases hj : j ≤ x.val
  · have : j < 16 := by omega
    have hjx : j < x.val + 1 := by omega
    simp [State.regsUpTo, State.reg, hj, this, hjx]
  · have hjx : ¬ j < x.val + 1 := by omega
    simp [State.regsUpTo, hj, hjx]

@[simp] theorem State.key_writeKey (s : State) (k : Fin 16) (b : Bool) (j : Fin 16) :
    (s.writeKey k b).key j = if j = k then b else s.key j := by
  by_cases h : j = k
  · subst h; simp [State.key, State.writeKey]
  · have hv : k.val ≠ j.val := fun e => h (Fin.ext e.symm)
    simp [State.key, State.writeKey, h, hv]

/-! ### The call stack -/

theorem State.sp_push (s : State) (a : Word) (h : s.sp.toNat < 15) : (s.push a).sp.toNat = s.sp.toNat + 1 := by
  simp [State.push, BitVec.toNat_add]; omega

/-- With fewer than fifteen entries in use, what was pushed is on top (R83). -/
theorem State.stackTop_push (s : State) (a : Word) (h : s.sp.toNat < 15) : (s.push a).stackTop = some a := by
  have h1 : (s.sp + 1).toNat = s.sp.toNat + 1 := by rw [BitVec.toNat_add]; simp; omega
  simp only [State.stackTop, State.push, h1]
  simp [show s.sp.toNat + 1 < 16 by omega]

/-- SP names an entry exactly when it is below 16 (R15). -/
theorem State.stackTop_eq (s : State) : s.stackTop = if h : s.sp.toNat < 16 then some (s.stack[s.sp.toNat]) else none := by
  unfold State.stackTop
  split <;> simp_all

end Sys2Proof.Machine
end

