-- ==== Sys2Proof/Laws/Operations.lean ====
section
/-! SUPPORT. One lemma per shared operation that says everything it can do, and what it leaves unchanged in the terms of
Safety.lean; provers cite these instead of unfolding the operations. -/

namespace Sys2Proof.Machine

/-! ### What each update may change -/

/-- The display part of a frame from the equality of the buffers. -/
theorem same_pixels {s t : State} (h : t.fb = s.fb) (r : Fin 32) (c : Fin 64) : t.pixel r c = s.pixel r c := by
  simp [State.pixel, h]

theorem OnlyChanges.refl (parts : List Part) (s : State) : OnlyChanges parts s s := by
  intro p _
  cases p <;> simp [Part.Same]

theorem OnlyChanges.trans {ps qs : List Part} {s t u : State} (h1 : OnlyChanges ps s t) (h2 : OnlyChanges qs t u) :
    OnlyChanges (ps ++ qs) s u := by
  intro p hp
  simp only [List.mem_append, not_or] at hp
  have a := h1 p hp.1
  have b := h2 p hp.2
  cases p
  case memory => exact fun x => (b x).trans (a x)
  case display => exact fun r c => (b r c).trans (a r c)
  case keys => exact fun k => (b k).trans (a k)
  case faultRecord =>
    obtain ⟨a1, a2, a3, a4, a5⟩ := a
    obtain ⟨b1, b2, b3, b4, b5⟩ := b
    exact ⟨b1.trans a1, b2.trans a2, b3.trans a3, b4.trans a4, b5.trans a5⟩
  all_goals exact Eq.trans b a

theorem OnlyChanges.mono {ps qs : List Part} {s t : State} (h : OnlyChanges ps s t) (hq : ∀ p ∈ ps, p ∈ qs) :
    OnlyChanges qs s t := fun p hp => h p (fun hm => hp (hq p hm))

theorem onlyChanges_writeReg (s : State) (x : RegIndex) (b : Byte) : OnlyChanges [.reg x] s (s.writeReg x b) := by
  intro p hp
  cases p <;> simp_all [Part.Same]

theorem onlyChanges_writeResultThenFlag (s : State) (x : RegIndex) (b f : Byte) :
    OnlyChanges [.reg x, .reg vf] s (s.writeResultThenFlag x b f) :=
  (onlyChanges_writeReg s x b).trans (onlyChanges_writeReg _ vf f)

theorem onlyChanges_loadRegs (s : State) (bytes : List Byte) (x : RegIndex) (h : bytes.length = x.val + 1) :
    OnlyChanges (((List.finRange 16).filter (· ≤ x)).map Part.reg) s (s.loadRegs bytes) := by
  intro p hp
  cases p with
  | reg r =>
    have hr : ¬ r ≤ x := by simpa using hp
    have hlen : bytes.length ≤ r.val := by rw [h]; exact Nat.succ_le_of_lt (Fin.lt_def.mp (not_le.mp hr))
    simp [Part.Same, State.reg_loadRegs, List.getElem?_eq_none hlen]
  | _ => simp [Part.Same]

theorem onlyChanges_writePc (s : State) (a : Word) : OnlyChanges [.pc] s (s.writePc a) := by
  intro p hp
  cases p <;> simp_all [Part.Same]

theorem onlyChanges_writeI (s : State) (a : Word) : OnlyChanges [.index] s (s.writeI a) := by
  intro p hp
  cases p <;> simp_all [Part.Same]

theorem onlyChanges_push (s : State) (a : Word) : OnlyChanges [.stackPointer, .stackEntries] s (s.push a) := by
  intro p hp
  cases p <;> simp_all [Part.Same]

theorem onlyChanges_dropTop (s : State) : OnlyChanges [.stackPointer] s s.dropTop := by
  intro p hp
  cases p <;> simp_all [Part.Same]

theorem onlyChanges_storeBytes (s : State) (a : Nat) (bytes : List Byte) :
    OnlyChanges [.memory] s (s.storeBytes a bytes) := by
  intro p hp
  cases p <;> simp_all [Part.Same]

theorem onlyChanges_writeFb (s : State) (fb : Framebuffer) : OnlyChanges [.display] s (s.writeFb fb) := by
  intro p hp
  cases p <;> simp_all [Part.Same]

theorem onlyChanges_writeDT (s : State) (b : Byte) : OnlyChanges [.delayTimer] s (s.writeDT b) := by
  intro p hp
  cases p <;> simp_all [Part.Same]

theorem onlyChanges_writeST (s : State) (b : Byte) : OnlyChanges [.soundTimer] s (s.writeST b) := by
  intro p hp
  cases p <;> simp_all [Part.Same]

theorem onlyChanges_writeKey (s : State) (k : Fin 16) (b : Bool) : OnlyChanges [.keys] s (s.writeKey k b) := by
  intro p hp
  cases p <;> simp_all [Part.Same]

theorem onlyChanges_enterWait (s : State) (x : RegIndex) : OnlyChanges [.wait, .waitReg] s (s.enterWait x) := by
  intro p hp
  cases p <;> simp_all [Part.Same]

theorem onlyChanges_leaveWait (s : State) : OnlyChanges [.wait] s s.leaveWait := by
  intro p hp
  cases p <;> simp_all [Part.Same]

theorem onlyChanges_countDraw (s : State) : OnlyChanges [.draws] s s.countDraw := by
  intro p hp
  cases p <;> simp_all [Part.Same]

theorem onlyChanges_setTickResult (s : State) (r : TickResult) : OnlyChanges [.tickResult] s (s.setTickResult r) := by
  intro p hp
  cases p <;> simp_all [Part.Same]

theorem onlyChanges_taken (s : State) : OnlyChanges [.events] s s.taken := by
  intro p hp
  cases p <;> simp_all [Part.Same]

theorem onlyChanges_advance (s : State) : OnlyChanges [.pc, .tickResult] s s.advance :=
  (onlyChanges_writePc s _).trans (onlyChanges_setTickResult _ _)

theorem onlyChanges_skipIf (s : State) (c : Bool) : OnlyChanges [.pc] s (s.skipIf c) := by
  cases c
  · exact OnlyChanges.refl _ s
  · exact onlyChanges_writePc s _

/-! ### Skips, faults, data accesses -/

/-- `skip` under a condition, on PC (R85). -/
theorem skipIf_pc (s : State) (c : Bool) : (s.skipIf c).pc = if c then s.pc + 2 else s.pc := by
  cases c <;> rfl

/-- Everything `raise` does (R150): the info must fit FAULT_ADDR's sixteen bits, as every info of R151 does. -/
theorem raised_raiseFault (s : State) (c : FaultCause) (info : Nat) (op pc0 : Word) (h : info < 65536) :
    Raised s (s.raiseFault c info op pc0) c info op pc0 := by
  refine ⟨rfl, rfl, ?_, rfl, rfl, rfl, ?_⟩
  · simpa using h
  · intro p hp
    cases p <;> simp_all [Part.Same]

/-- What the host reads as FAULT_CAUSE after `raise`: the code of the cause (R22, R151). -/
theorem Raised.faultCauseCode_eq {s t : State} {c : FaultCause} {info : Nat} {op pc0 : Word}
    (h : Raised s t c info op pc0) : t.faultCauseCode = c.code := congrArg FaultCause.code h.2.1

/-- `raise` inside an instruction answers a next state (R150). -/
theorem raiseIn_next (s : State) (op : Word) (c : FaultCause) (info : Nat) (h : info < 65536) :
    ∃ t, s.raiseIn op c info = .next t ∧ Raised s t c info op (s.pc - 2) :=
  ⟨_, rfl, raised_raiseFault s c info op _ h⟩

/-- When every byte exists the check finds nothing (R126). -/
theorem dataFault_none (s : State) (n : Nat) (h : n = 0 ∨ s.base + n - 1 ≤ 0xFFF) : s.dataFault n = none := by
  unfold State.dataFault
  rw [if_neg (by omega)]

/-- When a byte does not exist the check finds `max(I, 0x1000)` (R126, R151). -/
theorem dataFault_some (s : State) (n : Nat) (h1 : 1 ≤ n) (h2 : 0xFFF < s.base + n - 1) :
    s.dataFault n = some (max s.base 0x1000) := by
  unfold State.dataFault
  rw [if_pos ⟨h1, h2⟩]

theorem base_lt (s : State) : s.base < 65536 := s.i.isLt

/-- An instruction whose bytes exist has its effect. -/
theorem withData_next (s : State) (op : Word) (n : Nat) (t : State) (h : n = 0 ∨ s.base + n - 1 ≤ 0xFFF) :
    s.withData op n t = .next t := by
  unfold State.withData
  rw [dataFault_none s n h]

/-- An instruction that reaches above 0xFFF raises MemOutOfRange and has none of its effect. -/
theorem withData_fault (s : State) (op : Word) (n : Nat) (t : State) (h1 : 1 ≤ n) (h2 : 0xFFF < s.base + n - 1) :
    ∃ u, s.withData op n t = .next u ∧ Raised s u .memOutOfRange (max s.base 0x1000) op (s.pc - 2) := by
  unfold State.withData
  rw [dataFault_some s n h1 h2]
  have := base_lt s
  exact raiseIn_next s op _ _ (by omega)

/-- Everything a data access can answer. -/
theorem withData_cases (s : State) (op : Word) (n : Nat) (t u : State) (h : s.withData op n t = .next u) :
    ((n = 0 ∨ s.base + n - 1 ≤ 0xFFF) ∧ u = t)
    ∨ (1 ≤ n ∧ 0xFFF < s.base + n - 1 ∧ Raised s u .memOutOfRange (max s.base 0x1000) op (s.pc - 2)) := by
  by_cases hn : n = 0 ∨ s.base + n - 1 ≤ 0xFFF
  · rw [withData_next s op n t hn] at h
    injection h with h
    exact .inl ⟨hn, h.symm⟩
  · obtain ⟨w, hw, hr⟩ := withData_fault s op n t (by omega) (by omega)
    rw [hw] at h
    injection h with h
    exact .inr ⟨by omega, by omega, h ▸ hr⟩

/-- A key index is the register's value, when it is below 16 (R140). -/
theorem keyIndex_some (s : State) (x : RegIndex) (k : Fin 16) (h : (s.reg x).toNat = k.val) : s.keyIndex x = some k := by
  have hk : s.regNat x < 16 := by
    rw [State.regNat, h]
    exact k.isLt
  simp only [State.keyIndex, hk, dif_pos]
  exact congrArg some (Fin.ext h)

theorem keyIndex_none (s : State) (x : RegIndex) (h : 15 < (s.reg x).toNat) : s.keyIndex x = none := by
  have hk : ¬ s.regNat x < 16 := by
    rw [State.regNat]
    omega
  simp only [State.keyIndex, hk, dif_neg, not_false_eq_true]

/-! ### Memory and display, in the terms of claims -/

/-- What a store run does to each address. -/
theorem byteAt_storeBytes (s : State) (a : Nat) (bytes : List Byte) (c : Nat) :
    (s.storeBytes a bytes).byteAt c = if a ≤ c then (bytes[c - a]?).getD (s.byteAt c) else s.byteAt c :=
  Memory.read_writeBytes bytes s.mem a c

/-- What a read run gives. -/
theorem getElem?_bytesAt (s : State) (a n j : Nat) :
    (s.bytesAt a n)[j]? = if j < n then some (s.byteAt (a + j)) else none :=
  Memory.getElem?_readBytes s.mem a n j

/-- The sprite of the claims is the sprite drawing uses. -/
theorem spriteBit_iff (s : State) (x0 y0 n : Nat) (r : Fin 32) (c : Fin 64) :
    spriteBit x0 y0 (s.bytesAt s.base n) r c = true ↔ SpriteLights s x0 y0 n r c := by
  have hlen : (s.bytesAt s.base n).length = n := Memory.length_readBytes _ _ _
  simp only [spriteBit, rowBit, SpriteLights, hlen, List.any_eq_true, List.mem_range, Bool.and_eq_true, beq_iff_eq,
    Fin.ext_iff, rowOf, colOf, Fin.ofNat]
  constructor
  · rintro ⟨j, hj, hr, k, hk, hc, hb⟩
    refine ⟨j, k, hj, hk, hr.symm, hc.symm, ?_⟩
    simpa [List.getD, getElem?_bytesAt, hj] using hb
  · rintro ⟨j, k, hj, hk, hr, hc, hb⟩
    refine ⟨j, hj, hr.symm, k, hk, hc.symm, ?_⟩
    simpa [List.getD, getElem?_bytesAt, hj] using hb

/-! ### The cycle -/

/-- The mode is RUNNING exactly when neither bit is set (R34). -/
theorem mode_running (s : State) : s.mode = .running ↔ s.faulted = false ∧ s.wait = false := by
  unfold State.mode
  cases s.faulted <;> cases s.wait <;> simp

/-- A fetch inside memory reads the big-endian word at PC (R44, R45). -/
theorem fetch_ok (s : State) (h : s.pc.toNat ≤ 0xFFE) :
    s.fetch = .ok (s.byteAt s.pc.toNat ++ s.byteAt (s.pc.toNat + 1)) := by
  unfold State.fetch
  rw [if_neg (by omega), if_neg (by omega)]

/-- A fetch above memory names the first address above 0xFFF (R44, R151). -/
theorem fetch_error (s : State) (h : 0xFFE < s.pc.toNat) :
    s.fetch = .error (if 0xFFF < s.pc.toNat then s.pc.toNat else 0x1000) := by
  unfold State.fetch
  by_cases h1 : 0xFFF < s.pc.toNat
  · rw [if_pos h1, if_pos h1]
  · have h2 : s.pc.toNat + 1 = 0x1000 := by omega
    rw [if_neg h1, if_neg h1, if_pos (by omega), h2]

/-- The word of two bytes as a number: high byte first. -/
theorem append_eq_ofNat (hi lo : Byte) : (hi ++ lo : Word) = BitVec.ofNat 16 (256 * hi.toNat + lo.toNat) := by
  apply BitVec.eq_of_toNat_eq
  rw [BitVec.toNat_ofNat]
  show (hi ++ lo : BitVec (8 + 8)).toNat = _
  have h1 := hi.isLt
  have h2 := lo.isLt
  rw [BitVec.toNat_append, Nat.shiftLeft_eq, ← Nat.mul_comm (2 ^ 8), ← Nat.two_pow_add_eq_or_of_lt h2]
  omega

/-- Everything a running tick can do (R61): a fetch fault, the decoded instruction at the advanced state, or the report of an
unsupported word. -/
theorem runInstruction_cases (s : State) :
    (0xFFE < s.pc.toNat ∧ runInstruction s = .next
      (s.raiseFault .fetchOutOfRange (if 0xFFF < s.pc.toNat then s.pc.toNat else 0x1000) 0x0000 s.pc))
    ∨ (s.pc.toNat ≤ 0xFFE ∧ ∃ op, s.fetch = .ok op ∧
        ((∃ i, decode op = .ok i ∧ runInstruction s = exec i s.advance)
        ∨ (decode op = .error (.unsupported op)
          ∧ runInstruction s = .next (s.advance.setTickResult (.unsupported op))))) := by
  by_cases h : s.pc.toNat ≤ 0xFFE
  · refine .inr ⟨h, _, fetch_ok s h, ?_⟩
    unfold runInstruction
    rw [fetch_ok s h]
    rcases decode_cases (s.byteAt s.pc.toNat ++ s.byteAt (s.pc.toNat + 1)) with ⟨r, _, _, hd⟩ | ⟨_, hd⟩
    · exact .inl ⟨_, hd, by simp [hd]⟩
    · exact .inr ⟨hd, by simp [hd]⟩
  · refine .inl ⟨by omega, ?_⟩
    unfold runInstruction
    rw [fetch_error s (by omega)]

/-- Everything a step can do (R30, R60): one of the five events, a CPU_TICK by the mode. -/
theorem step_cases (s : State) :
    (∃ l, s.dueEvent = .reset l ∧ step s = .next (resetMachine l s.taken))
    ∨ (s.dueEvent = .timerTick ∧ step s = .next (timerTick s.taken))
    ∨ (∃ k b, s.dueEvent = .keySet k b ∧ step s = .next (keySet k b s.taken))
    ∨ (∃ k, s.dueEvent = .keyPress k ∧ step s = .next (keyPress k s.taken))
    ∨ (s.dueEvent = .cpuTick ∧ s.faulted = true ∧ step s = .next (s.taken.setTickResult .halted))
    ∨ (s.dueEvent = .cpuTick ∧ s.faulted = false ∧ s.wait = true ∧ step s = .next (s.taken.setTickResult .idle))
    ∨ (s.dueEvent = .cpuTick ∧ s.mode = .running ∧ step s = runInstruction s.taken) := by
  have hs : step s = perform s.dueEvent s.taken := rfl
  cases he : s.dueEvent with
  | reset l => exact .inl ⟨l, rfl, by rw [hs, he]; rfl⟩
  | timerTick => exact .inr (.inl ⟨rfl, by rw [hs, he]; rfl⟩)
  | keySet k b => exact .inr (.inr (.inl ⟨k, b, rfl, by rw [hs, he]; rfl⟩))
  | keyPress k => exact .inr (.inr (.inr (.inl ⟨k, rfl, by rw [hs, he]; rfl⟩)))
  | cpuTick =>
    have ht : step s = cpuTick s.taken := by rw [hs, he]; rfl
    refine .inr (.inr (.inr (.inr ?_)))
    cases hf : s.faulted with
    | true => exact .inl ⟨rfl, rfl, by simp [ht, cpuTick, hf]⟩
    | false =>
      cases hw : s.wait with
      | true => exact .inr (.inl ⟨rfl, rfl, rfl, by simp [ht, cpuTick, hf, hw]⟩)
      | false => exact .inr (.inr ⟨rfl, (mode_running s).mpr ⟨hf, hw⟩, by simp [ht, cpuTick, hf, hw]⟩)

end Sys2Proof.Machine
end

