-- ==== Sys2Proof/Laws/Footprint.lean ====
section
/-! SUPPORT. What an executed instruction can do, said once for all instructions: it has its effect, which reaches only the
parts listed here, or it raises a fault and has none of it (60_exceptions.md R150, R155). -/

namespace Sys2Proof.Machine

/-- The parts the effect of an instruction can change, read off the rule of each instruction. -/
def effectParts : Instr → List Part
  | .cls => [.display]
  | .ret => [.pc, .stackPointer]
  | .jpAddr _ | .jpV0Addr _ => [.pc]
  | .callAddr _ => [.stackPointer, .stackEntries, .pc]
  | .seVxByte _ _ | .sneVxByte _ _ | .seVxVy _ _ | .sneVxVy _ _ | .skpVx _ | .sknpVx _ => [.pc]
  | .ldVxByte x _ | .addVxByte x _ | .ldVxVy x _ | .orVxVy x _ | .andVxVy x _ | .xorVxVy x _ | .ldVxDT x => [.reg x]
  | .addVxVy x _ | .subVxVy x _ | .shrVx x _ | .subnVxVy x _ | .shlVx x _ => [.reg x, .reg vf]
  | .ldIAddr _ | .addIVx _ | .ldFVx _ => [.index]
  | .rndVxByte x _ => [.reg x, .draws]
  | .drwVxVyNibble _ _ _ => [.display, .reg vf]
  | .ldVxK _ => [.wait, .waitReg]
  | .ldDTVx _ => [.delayTimer]
  | .ldSTVx _ => [.soundTimer]
  | .ldBVx _ | .ldMemIVx _ => [.memory]
  | .ldVxMemI x => ((List.finRange 16).filter (· ≤ x)).map Part.reg

/-- `t` is what `raise` leaves when the instruction `i`, executing in `s`, raises a fault. -/
def RaisedBy (i : Instr) (s t : State) : Prop :=
  ∃ cause info, cause ≠ FaultCause.none ∧ Raised s t cause info (encode i) (s.pc - 2)

theorem next_inj {s t : State} (h : (.next s : Result) = .next t) : s = t := by
  injection h

/-- A data access has its effect or raises. -/
theorem withData_split {s t u : State} {i : Instr} {n : Nat} {ps : List Part} (ht : OnlyChanges ps s t)
    (h : s.withData (encode i) n t = .next u) : OnlyChanges ps s u ∨ RaisedBy i s u := by
  rcases withData_cases s _ n t u h with ⟨-, rfl⟩ | ⟨-, -, hr⟩
  · exact .inl ht
  · exact .inr ⟨_, _, by decide, hr⟩

/-- A fault raised inside an instruction. -/
theorem raisedBy_raiseIn {s t : State} {i : Instr} {c : FaultCause} {info : Nat} (hc : c ≠ .none) (hi : info < 65536)
    (h : s.raiseIn (encode i) c info = .next t) : RaisedBy i s t := by
  obtain ⟨u, hu, hr⟩ := raiseIn_next s (encode i) c info hi
  rw [hu] at h
  exact ⟨c, info, hc, next_inj h ▸ hr⟩

/-- CALL pushes and jumps, or raises (R83). -/
theorem execCallAddr_cases {nnn : Addr12} {s t : State} (h : execCallAddr nnn s = .next t) :
    (s.sp.toNat < 15 ∧ t = (s.push s.pc).writePc (zext16 nnn)) ∨ RaisedBy (.callAddr nnn) s t := by
  unfold execCallAddr at h
  split at h
  · have := s.sp.isLt
    exact .inr (raisedBy_raiseIn (by decide) (by omega) h)
  · exact .inl ⟨by omega, (next_inj h).symm⟩

/-- RET pops, or raises (R84). -/
theorem execRet_cases {s t : State} (h : execRet s = .next t) :
    (1 ≤ s.sp.toNat ∧ ∃ a, s.stackTop = some a ∧ t = (s.writePc a).dropTop) ∨ RaisedBy .ret s t := by
  unfold execRet at h
  split at h
  · exact .inr (raisedBy_raiseIn (by decide) (by omega) h)
  · split at h
    next a ha => exact .inl ⟨by omega, a, ha, (next_inj h).symm⟩
    next => cases h

/-- SKP skips or not, or raises (R140). -/
theorem execSkpVx_cases {x : RegIndex} {s t : State} (h : execSkpVx x s = .next t) :
    (∃ c, t = s.skipIf c) ∨ RaisedBy (.skpVx x) s t := by
  unfold execSkpVx at h
  split at h
  next k _ => exact .inl ⟨_, (next_inj h).symm⟩
  next =>
    have : s.regNat x < 256 := (s.reg x).isLt
    exact .inr (raisedBy_raiseIn (by decide) (by omega) h)

/-- SKNP skips or not, or raises (R141). -/
theorem execSknpVx_cases {x : RegIndex} {s t : State} (h : execSknpVx x s = .next t) :
    (∃ c, t = s.skipIf c) ∨ RaisedBy (.sknpVx x) s t := by
  unfold execSknpVx at h
  split at h
  next k _ => exact .inl ⟨_, (next_inj h).symm⟩
  next =>
    have : s.regNat x < 256 := (s.reg x).isLt
    exact .inr (raisedBy_raiseIn (by decide) (by omega) h)

/-- Every instruction: its effect within its parts, or a fault and none of it. -/
theorem exec_split {i : Instr} {s t : State} (h : exec i s = .next t) :
    OnlyChanges (effectParts i) s t ∨ RaisedBy i s t := by
  cases i with
  | cls => exact .inl (next_inj h ▸ onlyChanges_writeFb s _)
  | ret =>
    rcases execRet_cases h with ⟨-, a, -, rfl⟩ | hr
    · exact .inl ((onlyChanges_writePc s a).trans (onlyChanges_dropTop _))
    · exact .inr hr
  | jpAddr nnn => exact .inl (next_inj h ▸ onlyChanges_writePc s _)
  | callAddr nnn =>
    rcases execCallAddr_cases h with ⟨-, rfl⟩ | hr
    · exact .inl ((onlyChanges_push s s.pc).trans (onlyChanges_writePc _ _))
    · exact .inr hr
  | seVxByte x kk => exact .inl (next_inj h ▸ onlyChanges_skipIf s _)
  | sneVxByte x kk => exact .inl (next_inj h ▸ onlyChanges_skipIf s _)
  | seVxVy x y => exact .inl (next_inj h ▸ onlyChanges_skipIf s _)
  | ldVxByte x kk => exact .inl (next_inj h ▸ onlyChanges_writeReg s x _)
  | addVxByte x kk => exact .inl (next_inj h ▸ onlyChanges_writeReg s x _)
  | ldVxVy x y => exact .inl (next_inj h ▸ onlyChanges_writeReg s x _)
  | orVxVy x y => exact .inl (next_inj h ▸ onlyChanges_writeReg s x _)
  | andVxVy x y => exact .inl (next_inj h ▸ onlyChanges_writeReg s x _)
  | xorVxVy x y => exact .inl (next_inj h ▸ onlyChanges_writeReg s x _)
  | addVxVy x y => exact .inl (next_inj h ▸ onlyChanges_writeResultThenFlag s x _ _)
  | subVxVy x y => exact .inl (next_inj h ▸ onlyChanges_writeResultThenFlag s x _ _)
  | shrVx x y => exact .inl (next_inj h ▸ onlyChanges_writeResultThenFlag s x _ _)
  | subnVxVy x y => exact .inl (next_inj h ▸ onlyChanges_writeResultThenFlag s x _ _)
  | shlVx x y => exact .inl (next_inj h ▸ onlyChanges_writeResultThenFlag s x _ _)
  | sneVxVy x y => exact .inl (next_inj h ▸ onlyChanges_skipIf s _)
  | ldIAddr nnn => exact .inl (next_inj h ▸ onlyChanges_writeI s _)
  | jpV0Addr nnn => exact .inl (next_inj h ▸ onlyChanges_writePc s _)
  | rndVxByte x kk => exact .inl (next_inj h ▸ (onlyChanges_writeReg s x _).trans (onlyChanges_countDraw _))
  | drwVxVyNibble x y n =>
    exact withData_split ((onlyChanges_writeFb s _).trans (onlyChanges_writeReg _ vf _)) h
  | skpVx x =>
    rcases execSkpVx_cases h with ⟨c, rfl⟩ | hr
    · exact .inl (onlyChanges_skipIf s c)
    · exact .inr hr
  | sknpVx x =>
    rcases execSknpVx_cases h with ⟨c, rfl⟩ | hr
    · exact .inl (onlyChanges_skipIf s c)
    · exact .inr hr
  | ldVxDT x => exact .inl (next_inj h ▸ onlyChanges_writeReg s x _)
  | ldVxK x => exact .inl (next_inj h ▸ onlyChanges_enterWait s x)
  | ldDTVx x => exact .inl (next_inj h ▸ onlyChanges_writeDT s _)
  | ldSTVx x => exact .inl (next_inj h ▸ onlyChanges_writeST s _)
  | addIVx x => exact .inl (next_inj h ▸ onlyChanges_writeI s _)
  | ldFVx x => exact .inl (next_inj h ▸ onlyChanges_writeI s _)
  | ldBVx x => exact withData_split (onlyChanges_storeBytes s _ _) h
  | ldMemIVx x => exact withData_split (onlyChanges_storeBytes s _ _) h
  | ldVxMemI x => exact withData_split (onlyChanges_loadRegs s _ x (Memory.length_readBytes _ _ _)) h

end Sys2Proof.Machine
end

