-- ==== Sys2Proof/Laws/PerInstr.lean ====
section
/-! SUPPORT. Facts about every instruction as a term, one lemma per constructor. -/

/-- The encoding of an instruction is accepted by a row of the opcode map (30_encoding.md R66), and that row builds the
instruction back when it is well-formed. -/
def Sys2Proof.Laws.EncodeRow.Statement (i : Sys2Proof.Instr) : Prop :=
  ∃ r ∈ Sys2Proof.opcodeTable, r.accepts (Sys2Proof.encode i) = true
    ∧ (i.wellFormed = true → r.build (Sys2Proof.encode i) = i)

namespace Sys2Proof.Laws.EncodeRow

/-- The `k`-th row witnesses the statement. -/
theorem of_row (i : Instr) (k : Nat) (hk : k < opcodeTable.length)
    (ha : opcodeTable[k].accepts (encode i) = true)
    (hb : i.wellFormed = true → opcodeTable[k].build (encode i) = i) : Statement i :=
  ⟨opcodeTable[k], List.getElem_mem hk, ha, hb⟩

theorem cls : Statement .cls := of_row _ 0 (by decide) (by decide) (fun _ => rfl)

theorem ret : Statement .ret := of_row _ 1 (by decide) (by decide) (fun _ => rfl)

theorem jpAddr (nnn : Addr12) : Statement (.jpAddr nnn) :=
  of_row _ 2 (by decide) (beq_iff_eq.mpr (formatA_and_family _ nnn))
    (fun _ => congrArg Instr.jpAddr (fieldNNN_formatA _ nnn))

theorem callAddr (nnn : Addr12) : Statement (.callAddr nnn) :=
  of_row _ 3 (by decide) (beq_iff_eq.mpr (formatA_and_family _ nnn))
    (fun _ => congrArg Instr.callAddr (fieldNNN_formatA _ nnn))

theorem seVxByte (x : RegIndex) (kk : Byte) : Statement (.seVxByte x kk) :=
  of_row _ 4 (by decide) (beq_iff_eq.mpr (formatXK_and_family _ x kk))
    (fun _ => congrArg₂ Instr.seVxByte (fieldX_formatXK _ x kk) (fieldKK_formatXK _ x kk))

theorem sneVxByte (x : RegIndex) (kk : Byte) : Statement (.sneVxByte x kk) :=
  of_row _ 5 (by decide) (beq_iff_eq.mpr (formatXK_and_family _ x kk))
    (fun _ => congrArg₂ Instr.sneVxByte (fieldX_formatXK _ x kk) (fieldKK_formatXK _ x kk))

theorem seVxVy (x y : RegIndex) : Statement (.seVxVy x y) :=
  of_row _ 6 (by decide) (beq_iff_eq.mpr (formatXY_and_low _ x y _))
    (fun _ => congrArg₂ Instr.seVxVy (fieldX_formatXY _ x y _) (fieldY_formatXY _ x y _))

theorem ldVxByte (x : RegIndex) (kk : Byte) : Statement (.ldVxByte x kk) :=
  of_row _ 7 (by decide) (beq_iff_eq.mpr (formatXK_and_family _ x kk))
    (fun _ => congrArg₂ Instr.ldVxByte (fieldX_formatXK _ x kk) (fieldKK_formatXK _ x kk))

theorem addVxByte (x : RegIndex) (kk : Byte) : Statement (.addVxByte x kk) :=
  of_row _ 8 (by decide) (beq_iff_eq.mpr (formatXK_and_family _ x kk))
    (fun _ => congrArg₂ Instr.addVxByte (fieldX_formatXK _ x kk) (fieldKK_formatXK _ x kk))

theorem ldVxVy (x y : RegIndex) : Statement (.ldVxVy x y) :=
  of_row _ 9 (by decide) (beq_iff_eq.mpr (formatXY_and_low _ x y _))
    (fun _ => congrArg₂ Instr.ldVxVy (fieldX_formatXY _ x y _) (fieldY_formatXY _ x y _))

theorem orVxVy (x y : RegIndex) : Statement (.orVxVy x y) :=
  of_row _ 10 (by decide) (beq_iff_eq.mpr (formatXY_and_low _ x y _))
    (fun _ => congrArg₂ Instr.orVxVy (fieldX_formatXY _ x y _) (fieldY_formatXY _ x y _))

theorem andVxVy (x y : RegIndex) : Statement (.andVxVy x y) :=
  of_row _ 11 (by decide) (beq_iff_eq.mpr (formatXY_and_low _ x y _))
    (fun _ => congrArg₂ Instr.andVxVy (fieldX_formatXY _ x y _) (fieldY_formatXY _ x y _))

theorem xorVxVy (x y : RegIndex) : Statement (.xorVxVy x y) :=
  of_row _ 12 (by decide) (beq_iff_eq.mpr (formatXY_and_low _ x y _))
    (fun _ => congrArg₂ Instr.xorVxVy (fieldX_formatXY _ x y _) (fieldY_formatXY _ x y _))

theorem addVxVy (x y : RegIndex) : Statement (.addVxVy x y) :=
  of_row _ 13 (by decide) (beq_iff_eq.mpr (formatXY_and_low _ x y _))
    (fun _ => congrArg₂ Instr.addVxVy (fieldX_formatXY _ x y _) (fieldY_formatXY _ x y _))

theorem subVxVy (x y : RegIndex) : Statement (.subVxVy x y) :=
  of_row _ 14 (by decide) (beq_iff_eq.mpr (formatXY_and_low _ x y _))
    (fun _ => congrArg₂ Instr.subVxVy (fieldX_formatXY _ x y _) (fieldY_formatXY _ x y _))

theorem shrVx (x y : RegIndex) : Statement (.shrVx x y) :=
  of_row _ 15 (by decide) (beq_iff_eq.mpr (formatXY_and_low _ x y _))
    (fun _ => congrArg₂ Instr.shrVx (fieldX_formatXY _ x y _) (fieldY_formatXY _ x y _))

theorem subnVxVy (x y : RegIndex) : Statement (.subnVxVy x y) :=
  of_row _ 16 (by decide) (beq_iff_eq.mpr (formatXY_and_low _ x y _))
    (fun _ => congrArg₂ Instr.subnVxVy (fieldX_formatXY _ x y _) (fieldY_formatXY _ x y _))

theorem shlVx (x y : RegIndex) : Statement (.shlVx x y) :=
  of_row _ 17 (by decide) (beq_iff_eq.mpr (formatXY_and_low _ x y _))
    (fun _ => congrArg₂ Instr.shlVx (fieldX_formatXY _ x y _) (fieldY_formatXY _ x y _))

theorem sneVxVy (x y : RegIndex) : Statement (.sneVxVy x y) :=
  of_row _ 18 (by decide) (beq_iff_eq.mpr (formatXY_and_low _ x y _))
    (fun _ => congrArg₂ Instr.sneVxVy (fieldX_formatXY _ x y _) (fieldY_formatXY _ x y _))

theorem ldIAddr (nnn : Addr12) : Statement (.ldIAddr nnn) :=
  of_row _ 19 (by decide) (beq_iff_eq.mpr (formatA_and_family _ nnn))
    (fun _ => congrArg Instr.ldIAddr (fieldNNN_formatA _ nnn))

theorem jpV0Addr (nnn : Addr12) : Statement (.jpV0Addr nnn) :=
  of_row _ 20 (by decide) (beq_iff_eq.mpr (formatA_and_family _ nnn))
    (fun _ => congrArg Instr.jpV0Addr (fieldNNN_formatA _ nnn))

theorem rndVxByte (x : RegIndex) (kk : Byte) : Statement (.rndVxByte x kk) :=
  of_row _ 21 (by decide) (beq_iff_eq.mpr (formatXK_and_family _ x kk))
    (fun _ => congrArg₂ Instr.rndVxByte (fieldX_formatXK _ x kk) (fieldKK_formatXK _ x kk))

theorem drwVxVyNibble (x y : RegIndex) (n : Nat) : Statement (.drwVxVyNibble x y n) :=
  of_row _ 22 (by decide) (beq_iff_eq.mpr (formatXY_and_family _ x y _)) (fun h => by
    have hn : n < 16 := by simpa [Instr.wellFormed] using h
    show Instr.drwVxVyNibble (fieldX (formatXY _ x y _)) (fieldY (formatXY _ x y _)) (fieldN (formatXY _ x y _)) = _
    rw [fieldX_formatXY, fieldY_formatXY, fieldN_formatXY, BitVec.toNat_ofNat]
    congr 1
    omega)

theorem skpVx (x : RegIndex) : Statement (.skpVx x) :=
  of_row _ 23 (by decide) (beq_iff_eq.mpr (formatXF_and_function _ x _))
    (fun _ => congrArg Instr.skpVx (fieldX_formatXF _ x _))

theorem sknpVx (x : RegIndex) : Statement (.sknpVx x) :=
  of_row _ 24 (by decide) (beq_iff_eq.mpr (formatXF_and_function _ x _))
    (fun _ => congrArg Instr.sknpVx (fieldX_formatXF _ x _))

theorem ldVxDT (x : RegIndex) : Statement (.ldVxDT x) :=
  of_row _ 25 (by decide) (beq_iff_eq.mpr (formatXF_and_function _ x _))
    (fun _ => congrArg Instr.ldVxDT (fieldX_formatXF _ x _))

theorem ldVxK (x : RegIndex) : Statement (.ldVxK x) :=
  of_row _ 26 (by decide) (beq_iff_eq.mpr (formatXF_and_function _ x _))
    (fun _ => congrArg Instr.ldVxK (fieldX_formatXF _ x _))

theorem ldDTVx (x : RegIndex) : Statement (.ldDTVx x) :=
  of_row _ 27 (by decide) (beq_iff_eq.mpr (formatXF_and_function _ x _))
    (fun _ => congrArg Instr.ldDTVx (fieldX_formatXF _ x _))

theorem ldSTVx (x : RegIndex) : Statement (.ldSTVx x) :=
  of_row _ 28 (by decide) (beq_iff_eq.mpr (formatXF_and_function _ x _))
    (fun _ => congrArg Instr.ldSTVx (fieldX_formatXF _ x _))

theorem addIVx (x : RegIndex) : Statement (.addIVx x) :=
  of_row _ 29 (by decide) (beq_iff_eq.mpr (formatXF_and_function _ x _))
    (fun _ => congrArg Instr.addIVx (fieldX_formatXF _ x _))

theorem ldFVx (x : RegIndex) : Statement (.ldFVx x) :=
  of_row _ 30 (by decide) (beq_iff_eq.mpr (formatXF_and_function _ x _))
    (fun _ => congrArg Instr.ldFVx (fieldX_formatXF _ x _))

theorem ldBVx (x : RegIndex) : Statement (.ldBVx x) :=
  of_row _ 31 (by decide) (beq_iff_eq.mpr (formatXF_and_function _ x _))
    (fun _ => congrArg Instr.ldBVx (fieldX_formatXF _ x _))

theorem ldMemIVx (x : RegIndex) : Statement (.ldMemIVx x) :=
  of_row _ 32 (by decide) (beq_iff_eq.mpr (formatXF_and_function _ x _))
    (fun _ => congrArg Instr.ldMemIVx (fieldX_formatXF _ x _))

theorem ldVxMemI (x : RegIndex) : Statement (.ldVxMemI x) :=
  of_row _ 33 (by decide) (beq_iff_eq.mpr (formatXF_and_function _ x _))
    (fun _ => congrArg Instr.ldVxMemI (fieldX_formatXF _ x _))

end Sys2Proof.Laws.EncodeRow
end

