-- ==== Sys2Proof/Tests/Slice0.lean ====
section
/-! SUPPORT. Tests: words written out from the spec's formats, the vectors of 95_test_vectors.md (named by their ids; the
expected values are the spec's), and for each obligation with hypotheses states and operands that meet them. -/

namespace Sys2Proof.Tests

open Sys2Proof.Machine

/-! ## Helpers -/

/-- The state of an outcome; State.reset for a stop, which no test expects. -/
def nextOf : Result → State
  | .next t => t
  | .fault _ => State.reset
  | .refused _ => State.reset

/-- A state with registers set. -/
def regs (s : State) (l : List (RegIndex × Byte)) : State := l.foldl (fun s p => s.writeReg p.1 p.2) s

/-- The start state of a vector: reset, with registers set. -/
def V (l : List (RegIndex × Byte)) : State := regs State.reset l

/-- One CPU_TICK on the word, which is put at PC. -/
def tick (w : Word) (s : State) : State := nextOf (step (placeFetchWord s w))

/-- One event. -/
def event (e : Event) (s : State) : State := nextOf (step (s.withEvents [e]))

/-- The blank framebuffer with these pixels, (row, column), on. -/
def lit (l : List (Fin 32 × Fin 64)) : Framebuffer := l.foldl (fun fb p => fb.setPixel p.1 p.2 true) Framebuffer.blank

/-- The fault record after a tick, with PC and the result: cause, FAULT_OP, FAULT_ADDR, FAULT_PC, PC. -/
def record (s : State) : Option TickResult × Bool × FaultCause × Word × Word × Word × Word :=
  (s.tickResult, s.faulted, s.faultCause, s.faultOp, s.faultAddr, s.faultPc, s.pc)

/-- What `record` shows after a fault. -/
def faultRecord (c : FaultCause) (op addr pc0 pc : Word) : Option TickResult × Bool × FaultCause × Word × Word × Word × Word :=
  (some (.fault c), true, c, op, addr, pc0, pc)

/-! ## Decoding -/

/-- Row 1 of the opcode map (30_encoding.md R66), its words written out from the format (R64). -/
theorem test_decode_cls : decode 0b0000_0000_1110_0000 = .ok (.cls) := by decide

/-- Row 2 of the opcode map (30_encoding.md R66), its words written out from the format (R64). -/
theorem test_decode_ret : decode 0b0000_0000_1110_1110 = .ok (.ret) := by decide

/-- Row 3 of the opcode map (30_encoding.md R66), its words written out from the format (R64). -/
theorem test_decode_jpAddr : decode 0b0001_1010_0011_0101 = .ok (.jpAddr 0xA35)
    ∧ decode 0b0001_1111_1111_1111 = .ok (.jpAddr 0xFFF) := by decide

/-- Row 4 of the opcode map (30_encoding.md R66), its words written out from the format (R64). -/
theorem test_decode_callAddr : decode 0b0010_1010_0011_0101 = .ok (.callAddr 0xA35)
    ∧ decode 0b0010_1111_1111_1111 = .ok (.callAddr 0xFFF) := by decide

/-- Row 5 of the opcode map (30_encoding.md R66), its words written out from the format (R64). -/
theorem test_decode_seVxByte : decode 0b0011_1010_0011_0101 = .ok (.seVxByte 10 0x35)
    ∧ decode 0b0011_1111_1111_1111 = .ok (.seVxByte 15 0xFF) := by decide

/-- Row 6 of the opcode map (30_encoding.md R66), its words written out from the format (R64). -/
theorem test_decode_sneVxByte : decode 0b0100_1010_0011_0101 = .ok (.sneVxByte 10 0x35)
    ∧ decode 0b0100_1111_1111_1111 = .ok (.sneVxByte 15 0xFF) := by decide

/-- Row 7 of the opcode map (30_encoding.md R66), its words written out from the format (R64). -/
theorem test_decode_seVxVy : decode 0b0101_1010_0011_0000 = .ok (.seVxVy 10 3)
    ∧ decode 0b0101_0000_1111_0000 = .ok (.seVxVy 0 15) := by decide

/-- Row 8 of the opcode map (30_encoding.md R66), its words written out from the format (R64). -/
theorem test_decode_ldVxByte : decode 0b0110_1010_0011_0101 = .ok (.ldVxByte 10 0x35)
    ∧ decode 0b0110_1111_1111_1111 = .ok (.ldVxByte 15 0xFF) := by decide

/-- Row 9 of the opcode map (30_encoding.md R66), its words written out from the format (R64). -/
theorem test_decode_addVxByte : decode 0b0111_1010_0011_0101 = .ok (.addVxByte 10 0x35)
    ∧ decode 0b0111_1111_1111_1111 = .ok (.addVxByte 15 0xFF) := by decide

/-- Row 10 of the opcode map (30_encoding.md R66), its words written out from the format (R64). -/
theorem test_decode_ldVxVy : decode 0b1000_1010_0011_0000 = .ok (.ldVxVy 10 3)
    ∧ decode 0b1000_0000_1111_0000 = .ok (.ldVxVy 0 15) := by decide

/-- Row 11 of the opcode map (30_encoding.md R66), its words written out from the format (R64). -/
theorem test_decode_orVxVy : decode 0b1000_1010_0011_0001 = .ok (.orVxVy 10 3)
    ∧ decode 0b1000_0000_1111_0001 = .ok (.orVxVy 0 15) := by decide

/-- Row 12 of the opcode map (30_encoding.md R66), its words written out from the format (R64). -/
theorem test_decode_andVxVy : decode 0b1000_1010_0011_0010 = .ok (.andVxVy 10 3)
    ∧ decode 0b1000_0000_1111_0010 = .ok (.andVxVy 0 15) := by decide

/-- Row 13 of the opcode map (30_encoding.md R66), its words written out from the format (R64). -/
theorem test_decode_xorVxVy : decode 0b1000_1010_0011_0011 = .ok (.xorVxVy 10 3)
    ∧ decode 0b1000_0000_1111_0011 = .ok (.xorVxVy 0 15) := by decide

/-- Row 14 of the opcode map (30_encoding.md R66), its words written out from the format (R64). -/
theorem test_decode_addVxVy : decode 0b1000_1010_0011_0100 = .ok (.addVxVy 10 3)
    ∧ decode 0b1000_0000_1111_0100 = .ok (.addVxVy 0 15) := by decide

/-- Row 15 of the opcode map (30_encoding.md R66), its words written out from the format (R64). -/
theorem test_decode_subVxVy : decode 0b1000_1010_0011_0101 = .ok (.subVxVy 10 3)
    ∧ decode 0b1000_0000_1111_0101 = .ok (.subVxVy 0 15) := by decide

/-- Row 16 of the opcode map (30_encoding.md R66), its words written out from the format (R64). -/
theorem test_decode_shrVx : decode 0b1000_1010_0011_0110 = .ok (.shrVx 10 3)
    ∧ decode 0b1000_0000_1111_0110 = .ok (.shrVx 0 15) := by decide

/-- Row 17 of the opcode map (30_encoding.md R66), its words written out from the format (R64). -/
theorem test_decode_subnVxVy : decode 0b1000_1010_0011_0111 = .ok (.subnVxVy 10 3)
    ∧ decode 0b1000_0000_1111_0111 = .ok (.subnVxVy 0 15) := by decide

/-- Row 18 of the opcode map (30_encoding.md R66), its words written out from the format (R64). -/
theorem test_decode_shlVx : decode 0b1000_1010_0011_1110 = .ok (.shlVx 10 3)
    ∧ decode 0b1000_0000_1111_1110 = .ok (.shlVx 0 15) := by decide

/-- Row 19 of the opcode map (30_encoding.md R66), its words written out from the format (R64). -/
theorem test_decode_sneVxVy : decode 0b1001_1010_0011_0000 = .ok (.sneVxVy 10 3)
    ∧ decode 0b1001_0000_1111_0000 = .ok (.sneVxVy 0 15) := by decide

/-- Row 20 of the opcode map (30_encoding.md R66), its words written out from the format (R64). -/
theorem test_decode_ldIAddr : decode 0b1010_1010_0011_0101 = .ok (.ldIAddr 0xA35)
    ∧ decode 0b1010_1111_1111_1111 = .ok (.ldIAddr 0xFFF) := by decide

/-- Row 21 of the opcode map (30_encoding.md R66), its words written out from the format (R64). -/
theorem test_decode_jpV0Addr : decode 0b1011_1010_0011_0101 = .ok (.jpV0Addr 0xA35)
    ∧ decode 0b1011_1111_1111_1111 = .ok (.jpV0Addr 0xFFF) := by decide

/-- Row 22 of the opcode map (30_encoding.md R66), its words written out from the format (R64). -/
theorem test_decode_rndVxByte : decode 0b1100_1010_0011_0101 = .ok (.rndVxByte 10 0x35)
    ∧ decode 0b1100_1111_1111_1111 = .ok (.rndVxByte 15 0xFF) := by decide

/-- Row 23 of the opcode map (30_encoding.md R66), its words written out from the format (R64). -/
theorem test_decode_drwVxVyNibble : decode 0b1101_1010_0011_0101 = .ok (.drwVxVyNibble 10 3 5)
    ∧ decode 0b1101_0000_1111_0000 = .ok (.drwVxVyNibble 0 15 0)
    ∧ decode 0b1101_1111_0000_1111 = .ok (.drwVxVyNibble 15 0 15) := by decide

/-- Row 24 of the opcode map (30_encoding.md R66), its words written out from the format (R64). -/
theorem test_decode_skpVx : decode 0b1110_1010_1001_1110 = .ok (.skpVx 10)
    ∧ decode 0b1110_1111_1001_1110 = .ok (.skpVx 15) := by decide

/-- Row 25 of the opcode map (30_encoding.md R66), its words written out from the format (R64). -/
theorem test_decode_sknpVx : decode 0b1110_1010_1010_0001 = .ok (.sknpVx 10)
    ∧ decode 0b1110_1111_1010_0001 = .ok (.sknpVx 15) := by decide

/-- Row 26 of the opcode map (30_encoding.md R66), its words written out from the format (R64). -/
theorem test_decode_ldVxDT : decode 0b1111_1010_0000_0111 = .ok (.ldVxDT 10)
    ∧ decode 0b1111_1111_0000_0111 = .ok (.ldVxDT 15) := by decide

/-- Row 27 of the opcode map (30_encoding.md R66), its words written out from the format (R64). -/
theorem test_decode_ldVxK : decode 0b1111_1010_0000_1010 = .ok (.ldVxK 10)
    ∧ decode 0b1111_1111_0000_1010 = .ok (.ldVxK 15) := by decide

/-- Row 28 of the opcode map (30_encoding.md R66), its words written out from the format (R64). -/
theorem test_decode_ldDTVx : decode 0b1111_1010_0001_0101 = .ok (.ldDTVx 10)
    ∧ decode 0b1111_1111_0001_0101 = .ok (.ldDTVx 15) := by decide

/-- Row 29 of the opcode map (30_encoding.md R66), its words written out from the format (R64). -/
theorem test_decode_ldSTVx : decode 0b1111_1010_0001_1000 = .ok (.ldSTVx 10)
    ∧ decode 0b1111_1111_0001_1000 = .ok (.ldSTVx 15) := by decide

/-- Row 30 of the opcode map (30_encoding.md R66), its words written out from the format (R64). -/
theorem test_decode_addIVx : decode 0b1111_1010_0001_1110 = .ok (.addIVx 10)
    ∧ decode 0b1111_1111_0001_1110 = .ok (.addIVx 15) := by decide

/-- Row 31 of the opcode map (30_encoding.md R66), its words written out from the format (R64). -/
theorem test_decode_ldFVx : decode 0b1111_1010_0010_1001 = .ok (.ldFVx 10)
    ∧ decode 0b1111_1111_0010_1001 = .ok (.ldFVx 15) := by decide

/-- Row 32 of the opcode map (30_encoding.md R66), its words written out from the format (R64). -/
theorem test_decode_ldBVx : decode 0b1111_1010_0011_0011 = .ok (.ldBVx 10)
    ∧ decode 0b1111_1111_0011_0011 = .ok (.ldBVx 15) := by decide

/-- Row 33 of the opcode map (30_encoding.md R66), its words written out from the format (R64). -/
theorem test_decode_ldMemIVx : decode 0b1111_1010_0101_0101 = .ok (.ldMemIVx 10)
    ∧ decode 0b1111_1111_0101_0101 = .ok (.ldMemIVx 15) := by decide

/-- Row 34 of the opcode map (30_encoding.md R66), its words written out from the format (R64). -/
theorem test_decode_ldVxMemI : decode 0b1111_1010_0110_0101 = .ok (.ldVxMemI 10)
    ∧ decode 0b1111_1111_0110_0101 = .ok (.ldVxMemI 15) := by decide
/-! ## What is no instruction -/

/-- Vectors U1 to U10. -/
theorem test_unsupported_words :
    [0x0000, 0x00E1, 0x0123, 0x5121, 0x8018, 0x801F, 0x9121, 0xE09F, 0xF000, 0xFF75].all
      (fun op => decode op == .error (.unsupported op)) = true := by decide

/-- U1 as a step: reported, PC past it, no fault (60_exceptions.md R156). -/
theorem test_unsupported_step :
    record (tick 0x0000 State.reset) = (some (.unsupported 0x0000), false, .none, 0, 0, 0, 0x0202) := by decide

/-- A word needs two bytes (30_encoding.md R64). -/
theorem test_decode_truncated : decodeBytes [0x60] = .error .truncated := by decide

/-- Big-endian (F4): 12 34 is 1234. -/
theorem test_decode_bytes : decodeBytes [0x12, 0x34, 0x56] = .ok (.jpAddr 0x234, [0x56]) := by decide

/-- WellFormed refuses a draw of sixteen rows, and no word is one. -/
theorem test_wellFormed_refuses_sixteen_rows : (Instr.drwVxVyNibble 1 2 16).wellFormed = false := by decide

theorem test_wellFormed_accepts_fifteen_rows : (Instr.drwVxVyNibble 1 2 15).wellFormed = true := by decide

/-- The host's numbering: a row's bits 15..8 are the byte at the lower address. -/
theorem test_decodeTableWord :
    decodeTableWord 16 0x8AB6 = some (.shrVx 10 11) ∧ decodeTableWord 16 0x8018 = none := by decide

theorem test_withFetchWord : (nextOf (step (State.reset.withFetchWord 16 0x6A5C))).reg 10 = 0x5C := by decide

/-- The spellings of the three lines the source shows with their bytes (95_test_vectors.md E6, 30_encoding.md R69). -/
theorem test_assemble :
    (assemble ⟨.LD, [.reg 0, .byte 0x0A]⟩).map encode = some 0x600A
    ∧ (assemble ⟨.ADD, [.reg 0, .reg 1]⟩).map encode = some 0x8014
    ∧ assemble ⟨.JP, [.reg 1, .addr 0x300]⟩ = none := by decide

/-! ## Loads, arithmetic, logic, shifts, random (vectors A) -/

theorem test_A0b_ldVxByte : (tick 0x6F07 (V [(15, 0x01)])).reg 15 = 0x07 := by decide

theorem test_A1_addVxByte : (tick 0x7202 (V [(2, 0xFF), (15, 0x55)])).reg 2 = 0x01
    ∧ (tick 0x7202 (V [(2, 0xFF), (15, 0x55)])).reg 15 = 0x55 := by decide

theorem test_A3_addVxByte : (tick 0x7F01 (V [(15, 0xFF)])).reg 15 = 0x00 := by decide

theorem test_A4_ldVxVy : (tick 0x8AF0 (V [(15, 0x01), (10, 0x33)])).reg 10 = 0x01 := by decide

theorem test_A5_orVxVy : (tick 0x8011 (V [(0, 0xF0), (1, 0x3C), (15, 0x55)])).reg 0 = 0xFC
    ∧ (tick 0x8011 (V [(0, 0xF0), (1, 0x3C), (15, 0x55)])).reg 15 = 0x55 := by decide

theorem test_A6_andVxVy : (tick 0x8012 (V [(0, 0xF0), (1, 0x3C), (15, 0x55)])).reg 0 = 0x30
    ∧ (tick 0x8012 (V [(0, 0xF0), (1, 0x3C), (15, 0x55)])).reg 15 = 0x55 := by decide

theorem test_A7_xorVxVy : (tick 0x8013 (V [(0, 0xF0), (1, 0x3C), (15, 0x55)])).reg 0 = 0xCC
    ∧ (tick 0x8013 (V [(0, 0xF0), (1, 0x3C), (15, 0x55)])).reg 15 = 0x55 := by decide

theorem test_A11_addVxVy : (tick 0x8014 (V [(0, 0xFF), (1, 0x01)])).reg 0 = 0x00
    ∧ (tick 0x8014 (V [(0, 0xFF), (1, 0x01)])).reg 15 = 0x01 := by decide

/-- A13 and A14: the destination is VF, and the flag remains. -/
theorem test_A13_addVxVy : (tick 0x8F14 (V [(15, 0x80), (1, 0x90)])).reg 15 = 0x01
    ∧ (tick 0x8F14 (V [(15, 0x10), (1, 0x20)])).reg 15 = 0x00 := by decide

theorem test_A19_subVxVy : (tick 0x8015 (V [(0, 0x03), (1, 0x05), (15, 0x01)])).reg 0 = 0xFE
    ∧ (tick 0x8015 (V [(0, 0x03), (1, 0x05), (15, 0x01)])).reg 15 = 0x00 := by decide

/-- A20 and A21: equal operands, and the destination VF. -/
theorem test_A20_subVxVy : (tick 0x8015 (V [(0, 0x05), (1, 0x05), (15, 0x01)])).reg 15 = 0x00
    ∧ (tick 0x8F15 (V [(15, 0x09), (1, 0x03)])).reg 15 = 0x01 := by decide

theorem test_A26_shrVx : (tick 0x8016 (V [(0, 0x05), (1, 0xAA)])).reg 0 = 0x02
    ∧ (tick 0x8016 (V [(0, 0x05), (1, 0xAA)])).reg 1 = 0xAA
    ∧ (tick 0x8016 (V [(0, 0x05), (1, 0xAA)])).reg 15 = 0x01 := by decide

theorem test_A31_shrVx : (tick 0x8F06 (V [(15, 0x02)])).reg 15 = 0x00 := by decide

theorem test_A33_subnVxVy : (tick 0x8017 (V [(0, 0x03), (1, 0x05)])).reg 0 = 0x02
    ∧ (tick 0x8017 (V [(0, 0x03), (1, 0x05)])).reg 15 = 0x01 := by decide

theorem test_A34_subnVxVy : (tick 0x8017 (V [(0, 0x05), (1, 0x05), (15, 0x01)])).reg 15 = 0x00 := by decide

theorem test_A37_shlVx : (tick 0x801E (V [(0, 0x81), (1, 0x55)])).reg 0 = 0x02
    ∧ (tick 0x801E (V [(0, 0x81), (1, 0x55)])).reg 1 = 0x55
    ∧ (tick 0x801E (V [(0, 0x81), (1, 0x55)])).reg 15 = 0x01 := by decide

theorem test_A40_shlVx : (tick 0x8F0E (V [(15, 0x7F)])).reg 15 = 0x00 := by decide

/-- A43: masked with 00, whatever the draw; and the draw is consumed. -/
theorem test_A43_rndVxByte : (tick 0xC300 (V [(3, 0x99)])).reg 3 = 0x00 ∧ (tick 0xC300 (V [(3, 0x99)])).draws = 1 :=
  ⟨BitVec.and_zero (x := Config.draw8 0), rfl⟩

/-- A44: in 00..0F, whatever the draw. -/
theorem test_A44_rndVxByte : (tick 0xC30F (V [])).reg 3 = Config.draw8 0 &&& 0x0F := rfl

/-! ## Index register and memory transfers (vectors B) -/

theorem test_B2_ldIAddr : (tick 0xAFFF (State.reset.writeI 0x1234)).i = 0x0FFF := by decide

/-- B5, with the default modulus and with the alternative. -/
theorem test_B5_addIVx : (tick 0xF01E ((V [(0, 0x02)]).writeI 0xFFFE)).i = 0x0001
    ∧ (tick 0xF01E { (V [(0, 0x02)]).writeI 0xFFFE with iAddModulus := .m65536 }).i = 0x0000 := by decide

theorem test_B7_addIVx : (tick 0xFF1E ((V [(15, 0x07)]).writeI 0xFFFE)).i = 0x0006
    ∧ (tick 0xFF1E ((V [(15, 0x07)]).writeI 0xFFFE)).reg 15 = 0x07 := by decide

/-- B9 and B11: the whole byte times five. -/
theorem test_B9_ldFVx : (tick 0xF029 (V [(0, 0x0A)])).i = 0x0032 ∧ (tick 0xF029 (V [(0, 0xFF)])).i = 0x04FB := by decide

theorem test_B16_ldBVx : (tick 0xF033 ((V [(0, 0x7B)]).writeI 0xFFD)).bytesAt 0xFFD 3 = [0x01, 0x02, 0x03] := by decide

theorem test_B17_ldBVx : record (tick 0xF033 ((V [(0, 0x7B)]).writeI 0xFFE))
      = faultRecord .memOutOfRange 0xF033 0x1000 0x0200 0x0202
    ∧ (tick 0xF033 ((V [(0, 0x7B)]).writeI 0xFFE)).bytesAt 0xFFE 2 = [0x00, 0x00] := by decide

theorem test_B19_ldMemIVx :
    (tick 0xF255 ((V [(0, 0x11), (1, 0x22), (2, 0x33)]).writeI 0xFFD)).bytesAt 0xFFD 3 = [0x11, 0x22, 0x33]
    ∧ (tick 0xF255 ((V [(0, 0x11), (1, 0x22), (2, 0x33)]).writeI 0xFFD)).i = 0x0FFD := by decide

theorem test_B20_ldMemIVx : record (tick 0xF255 ((V [(0, 0x11), (1, 0x22), (2, 0x33)]).writeI 0xFFE))
      = faultRecord .memOutOfRange 0xF255 0x1000 0x0200 0x0202
    ∧ (tick 0xF255 ((V [(0, 0x11), (1, 0x22), (2, 0x33)]).writeI 0xFFE)).bytesAt 0xFFE 2 = [0x00, 0x00] := by decide

/-- B26: glyph 0 of the default font (log 4). -/
theorem test_B26_ldVxMemI : (tick 0xF265 State.reset).regsUpTo 2 = [0xF0, 0x90, 0x90] := by decide

theorem test_B24_ldVxMemI : record (tick 0xF165 ((State.reset.storeBytes 0xFFF [0xAB]).writeI 0xFFF))
      = faultRecord .memOutOfRange 0xF165 0x1000 0x0200 0x0202
    ∧ (tick 0xF165 ((State.reset.storeBytes 0xFFF [0xAB]).writeI 0xFFF)).reg 0 = 0x00 := by decide

/-- B21: a store into the font region succeeds (20_memory.md R49). -/
theorem test_B21_store_into_font : (tick 0xF055 (V [(0, 0x9C)])).byteAt 0x000 = 0x9C := by decide

/-- Writing back what the unlisted address reads as removes the entry. -/
theorem test_memory_canonical : ((State.reset.storeBytes 0x000 [0x9C]).storeBytes 0x000 [0xF0]).mem = [] := by decide

/-! ## Control transfer (vectors C) -/

theorem test_C1_jpAddr : (tick 0x1234 State.reset).pc = 0x0234 := by decide

theorem test_C5_jpV0Addr : (tick 0xBFFF (V [(0, 0xFF)])).pc = 0x10FE := by decide

/-- The first tick of C6. -/
theorem test_C6_callAddr : (tick 0x2300 (State.reset.writePc 0x204)).pc = 0x0300
    ∧ (tick 0x2300 (State.reset.writePc 0x204)).sp = 1
    ∧ (tick 0x2300 (State.reset.writePc 0x204)).stack[1] = 0x0206 := by decide

theorem test_C8_callAddr : record (tick 0x2ABC { State.reset with sp := 0x0F })
    = faultRecord .stackOverflow 0x2ABC 0x000F 0x0200 0x0202 := by decide

/-- The second tick of C6. -/
theorem test_C6_ret : (tick 0x00EE ((State.reset.push 0x0206).writePc 0x300)).pc = 0x0206
    ∧ (tick 0x00EE ((State.reset.push 0x0206).writePc 0x300)).sp = 0
    ∧ (tick 0x00EE ((State.reset.push 0x0206).writePc 0x300)).stack[1] = 0x0206 := by decide

theorem test_C9_ret : record (tick 0x00EE State.reset) = faultRecord .stackUnderflow 0x00EE 0x0000 0x0200 0x0202 := by decide

theorem test_C10_seVxByte : (tick 0x3A05 (V [(10, 0x05)])).pc = 0x0204 ∧ (tick 0x3A05 (V [(10, 0x06)])).pc = 0x0202 := by
  decide

theorem test_C12_sneVxByte : (tick 0x4A05 (V [(10, 0x05)])).pc = 0x0202 ∧ (tick 0x4A05 (V [(10, 0x06)])).pc = 0x0204 := by
  decide

theorem test_C14_seVxVy : (tick 0x5120 (V [(1, 0x07), (2, 0x07)])).pc = 0x0204 := by decide

theorem test_C16_sneVxVy : (tick 0x9120 (V [(1, 0x07), (2, 0x08)])).pc = 0x0204
    ∧ (tick 0x9110 (V [(1, 0x07)])).pc = 0x0202 := by decide

/-- C18: a skip at the last word. -/
theorem test_C18_skip_at_the_end : (tick 0x3000 (State.reset.writePc 0xFFE)).pc = 0x1002 := by decide

/-! ## Display (vectors D) -/

theorem test_D1_cls : (tick 0x00E0 ((V [(15, 0x01)]).writeFb (lit [(0, 0), (31, 63)]))).fb = lit []
    ∧ (tick 0x00E0 ((V [(15, 0x01)]).writeFb (lit [(0, 0), (31, 63)]))).reg 15 = 0x01 := by decide

/-- The start of D4: both wraps. -/
def startD4 : State := ((V [(1, 0x3E), (2, 0x1F), (15, 0x01)]).writeI 0x300).storeBytes 0x300 [0xF0, 0x81]

theorem test_D4_drwVxVyNibble :
    (tick 0xD122 startD4).fb = lit [(31, 62), (31, 63), (31, 0), (31, 1), (0, 62), (0, 5)]
    ∧ (tick 0xD122 startD4).reg 15 = 0x00 := by decide

/-- The start of D6: a collision on one pixel while another turns on. -/
def startD6 : State := ((State.reset.writeI 0x300).storeBytes 0x300 [0xC0]).writeFb (lit [(0, 0)])

theorem test_D6_drwVxVyNibble : (tick 0xD121 startD6).fb = lit [(0, 1)] ∧ (tick 0xD121 startD6).reg 15 = 0x01 := by decide

/-- D8 and D9: no row reads no memory; one row above memory faults and draws nothing. -/
theorem test_D8_draw_of_no_row : (tick 0xD120 ((V [(15, 0x01)]).writeI 0x2000)).reg 15 = 0x00
    ∧ (tick 0xD120 ((V [(15, 0x01)]).writeI 0x2000)).tickResult = some .ok
    ∧ record (tick 0xD121 (State.reset.writeI 0x2000)) = faultRecord .memOutOfRange 0xD121 0x2000 0x0200 0x0202 := by decide

/-- D14: the column is the old VF. -/
theorem test_D14_draw_with_vf : (tick 0xDF11 (((V [(15, 0x02), (1, 0x03)]).writeI 0x300).storeBytes 0x300 [0x80])).fb
    = lit [(3, 2)] := by decide

/-- D15: glyph 0 of the default font (log 4). -/
theorem test_D15_draw_glyph : (tick 0xD005 State.reset).fb
    = lit [(0, 0), (0, 1), (0, 2), (0, 3), (1, 0), (1, 3), (2, 0), (2, 3), (3, 0), (3, 3), (4, 0), (4, 1), (4, 2), (4, 3)] := by
  decide

/-! ## Keys, timers, wait and the events (vectors K) -/

/-- K1 and K2. -/
theorem test_K1_skpVx : (tick 0xE39E (((V [(3, 0x07)]).writePc 0x206).writeKey 7 true)).pc = 0x020A
    ∧ (tick 0xE39E ((V [(3, 0x07)]).writePc 0x206)).pc = 0x0208 := by decide

theorem test_K6_skpVx : record (tick 0xE09E (V [(0, 0x10)]))
    = faultRecord .keyIndexOutOfRange 0xE09E 0x0010 0x0200 0x0202 := by decide

/-- K3 and K4. -/
theorem test_K3_sknpVx : (tick 0xE3A1 ((V [(3, 0x07)]).writePc 0x206)).pc = 0x020A
    ∧ (tick 0xE3A1 (((V [(3, 0x07)]).writePc 0x206).writeKey 7 true)).pc = 0x0208 := by decide

theorem test_K7_sknpVx : record (tick 0xE0A1 (V [(0, 0xFF)]))
    = faultRecord .keyIndexOutOfRange 0xE0A1 0x00FF 0x0200 0x0202 := by decide

theorem test_K8_ldVxDT : (tick 0xF407 (State.reset.writeDT 0x05)).reg 4 = 0x05 := by decide

theorem test_K9_ldDTVx : (tick 0xF315 (V [(3, 0x07)])).dt = 0x07 ∧ (tick 0xF315 (V [(3, 0x07)])).delayActive = true
    ∧ (tick 0xF315 (State.reset.writeDT 0x09)).delayActive = false := by decide

theorem test_K11_ldSTVx : (tick 0xF518 (V [(5, 0x1E)])).st = 0x1E ∧ (tick 0xF518 (V [(5, 0x1E)])).soundActive = true := by
  decide

/-- K13: a held key does not end the wait. -/
theorem test_K13_ldVxK : (tick 0xF30A (State.reset.writeKey 7 true)).wait = true
    ∧ (tick 0xF30A (State.reset.writeKey 7 true)).waitReg = 3
    ∧ (tick 0xF30A (State.reset.writeKey 7 true)).pc = 0x0202
    ∧ (tick 0xF30A (State.reset.writeKey 7 true)).reg 3 = 0x00 := by decide

/-- K15 and K16. -/
theorem test_K15_timerTick : (event .timerTick (State.reset.writeDT 0x02)).dt = 0x01
    ∧ (event .timerTick (State.reset.writeDT 0x02)).st = 0x00
    ∧ (event .timerTick (State.reset.writeST 0x01)).soundActive = false
    ∧ (event .timerTick (State.reset.writeST 0x01)).dt = 0x00 := by decide

theorem test_K18_keySet : (event (.keySet 7 true) (State.reset.enterWait 3)).key 7 = true
    ∧ (event (.keySet 7 true) (State.reset.enterWait 3)).wait = true := by decide

theorem test_K19_keyPress_running : event (.keyPress 7) State.reset = State.reset := by decide

theorem test_K20_keyPress_waiting : (event (.keyPress 7) (State.reset.enterWait 3)).reg 3 = 0x07
    ∧ (event (.keyPress 7) (State.reset.enterWait 3)).wait = false
    ∧ (event (.keyPress 7) (State.reset.enterWait 3)).key 7 = false := by decide

theorem test_K21_idle : event .cpuTick (State.reset.enterWait 3) = (State.reset.enterWait 3).setTickResult .idle := by decide

/-- A faulted machine, as C9 leaves it. -/
def faultedState : State := State.reset.raiseFault .stackUnderflow 0 0x00EE 0x0200

theorem test_K22_faulted : event .timerTick (faultedState.writeDT 0x05) = faultedState.writeDT 0x05
    ∧ event (.keySet 1 true) faultedState = faultedState ∧ event (.keyPress 1) faultedState = faultedState
    ∧ event .cpuTick faultedState = faultedState.setTickResult .halted := by decide

/-- RESET leaves FAULTED and loads the ROM of P1 (70_reset_and_hazards.md R180). -/
theorem test_reset_loads : (event (.reset (Launch.ofRom [0x60, 0x0A, 0x61, 0x05, 0x80, 0x14])) faultedState).mode = .running
    ∧ (event (.reset (Launch.ofRom [0x60, 0x0A, 0x61, 0x05, 0x80, 0x14])) faultedState).bytesAt 0x200 7
      = [0x60, 0x0A, 0x61, 0x05, 0x80, 0x14, 0x00] := by decide

/-- The codes of FAULT_CAUSE (60_exceptions.md R151). -/
theorem test_fault_codes : [FaultCause.none, .fetchOutOfRange, .memOutOfRange, .stackOverflow, .stackUnderflow,
    .keyIndexOutOfRange].map FaultCause.code = [0, 1, 2, 3, 4, 5] := by decide

/-! ## Fetch (vectors F) -/

theorem test_F1_last_fetch : (tick 0x6011 (State.reset.writePc 0xFFE)).reg 0 = 0x11
    ∧ (tick 0x6011 (State.reset.writePc 0xFFE)).pc = 0x1000 := by decide

theorem test_F2_fetch_fault : record (event .cpuTick (State.reset.writePc 0x1000))
    = faultRecord .fetchOutOfRange 0x0000 0x1000 0x1000 0x1000 := by decide

theorem test_F3_fetch_fault : record (event .cpuTick (State.reset.writePc 0xFFF))
    = faultRecord .fetchOutOfRange 0x0000 0x1000 0x0FFF 0x0FFF := by decide

/-! ## Witnesses: states and operands that meet the hypotheses of the obligations -/

/-- The word `op` stands at `a`, PC is there, and nothing is pending. -/
def standing (a op : Word) : State := placeFetchWord (State.reset.writePc a) op

/-- O1: a well-formed instruction at the bound of its operand. -/
theorem witness_DecodeOfEncodeGivesTheInstruction : (Instr.drwVxVyNibble 15 15 15).wellFormed = true := by decide

/-- O2: words that decode, the least and the greatest of the map. -/
theorem witness_EncodeOfDecodeGivesTheWord : decode 0x00E0 = .ok .cls ∧ decode 0xFF65 = .ok (.ldVxMemI 15) := by decide

/-- O3: for each row a word that meets its test, with every operand bit 1. -/
theorem witness_DecodeFollowsTheOpcodeMap :
    [((0xFFFF : Word), (0x00E0 : Word), (0x00E0 : Word)), (0xFFFF, 0x00EE, 0x00EE), (0xF000, 0x1000, 0x1FFF),
     (0xF000, 0x2000, 0x2FFF), (0xF000, 0x3000, 0x3FFF), (0xF000, 0x4000, 0x4FFF), (0xF00F, 0x5000, 0x5FF0),
     (0xF000, 0x6000, 0x6FFF), (0xF000, 0x7000, 0x7FFF), (0xF00F, 0x8000, 0x8FF0), (0xF00F, 0x8001, 0x8FF1),
     (0xF00F, 0x8002, 0x8FF2), (0xF00F, 0x8003, 0x8FF3), (0xF00F, 0x8004, 0x8FF4), (0xF00F, 0x8005, 0x8FF5),
     (0xF00F, 0x8006, 0x8FF6), (0xF00F, 0x8007, 0x8FF7), (0xF00F, 0x800E, 0x8FFE), (0xF00F, 0x9000, 0x9FF0),
     (0xF000, 0xA000, 0xAFFF), (0xF000, 0xB000, 0xBFFF), (0xF000, 0xC000, 0xCFFF), (0xF000, 0xD000, 0xDFFF),
     (0xF0FF, 0xE09E, 0xEF9E), (0xF0FF, 0xE0A1, 0xEFA1), (0xF0FF, 0xF007, 0xFF07), (0xF0FF, 0xF00A, 0xFF0A),
     (0xF0FF, 0xF015, 0xFF15), (0xF0FF, 0xF018, 0xFF18), (0xF0FF, 0xF01E, 0xFF1E), (0xF0FF, 0xF029, 0xFF29),
     (0xF0FF, 0xF033, 0xFF33), (0xF0FF, 0xF055, 0xFF55), (0xF0FF, 0xF065, 0xFF65)].all
      (fun r => r.2.2 &&& r.1 == r.2.1) = true := by decide

/-- O5: a word of each of the six clauses, and one of none. -/
theorem witness_UnsupportedWordsByFamily :
    [0x0FFF, 0x5FF1, 0x8FFF, 0x9FFF, 0xEF9F, 0xFFFF].all (fun op => decode op == .error (.unsupported op)) = true
    ∧ decode 0xFF55 = .ok (.ldMemIVx 15) := by decide

/-- O7: a well-formed instruction that is no shift. -/
theorem witness_AssembleReadsBackEverySpelling : (Instr.drwVxVyNibble 1 2 15).wellFormed = true
    ∧ (∀ x y, Instr.drwVxVyNibble 1 2 15 ≠ .shrVx x y ∧ Instr.drwVxVyNibble 1 2 15 ≠ .shlVx x y) :=
  ⟨by decide, fun _ _ => ⟨Instr.noConfusion, Instr.noConfusion⟩⟩

/-- O8: the last address a fetch can start at. -/
theorem witness_StepRunsTheDecodedInstruction : let s := standing 0xFFE 0x6011
    s.dueEvent = .cpuTick ∧ s.mode = .running ∧ s.pc.toNat = 0xFFE
    ∧ decode (BitVec.ofNat 16 (256 * (s.byteAt s.pc.toNat).toNat + (s.byteAt (s.pc.toNat + 1)).toNat))
      = .ok (.ldVxByte 0 0x11) := by decide

/-- O9: the word 0000 at the last address. -/
theorem witness_StepReportsAnUnsupportedWord : let s := State.reset.writePc 0xFFE
    s.dueEvent = .cpuTick ∧ s.mode = .running ∧ s.pc.toNat ≤ 0xFFE
    ∧ (0x0000 : Word) = BitVec.ofNat 16 (256 * (s.byteAt s.pc.toNat).toNat + (s.byteAt (s.pc.toNat + 1)).toNat)
    ∧ (∀ i, decode 0x0000 ≠ .ok i) :=
  ⟨rfl, rfl, by decide, by decide, fun i h => by cases h⟩

/-- O10: PC 0xFFF, where the second byte is missing, and 0x1000, where the first is. -/
theorem witness_FetchAboveMemoryFaults : [(0xFFF : Word), 0x1000, 0xFFFF].all (fun a => let s := State.reset.writePc a
    s.dueEvent == .cpuTick && s.mode == .running && decide (0xFFE < s.pc.toNat)) = true := by decide

/-- O11: both gates. -/
theorem witness_GatedTickChangesNoState : faultedState.dueEvent = .cpuTick ∧ faultedState.faulted = true
    ∧ (State.reset.enterWait 3).dueEvent = .cpuTick ∧ (State.reset.enterWait 3).faulted = false
    ∧ (State.reset.enterWait 3).wait = true := by decide

/-- O12: the counters at 255, 1 and 0. -/
theorem witness_TimerTickCountsDown : [(0xFF : Byte), 0x01, 0x00].all (fun b =>
    let s := ((State.reset.writeDT b).writeST b).withEvents [.timerTick]
    s.dueEvent == .timerTick && !s.faulted) = true := by decide

/-- O13 and O14: the least and the greatest key, running and waiting and faulted. -/
theorem witness_KeySetWritesOneLatchBit : [(0 : Fin 16), 15].all (fun k =>
    let s := State.reset.withEvents [.keySet k true]
    s.dueEvent == .keySet k true && !s.faulted) = true := by decide

theorem witness_KeyPressEndsTheWait : [(0 : Fin 16), 15].all (fun k =>
    let w := (State.reset.enterWait 15).withEvents [.keyPress k]
    let r := State.reset.withEvents [.keyPress k]
    let f := faultedState.withEvents [.keyPress k]
    w.dueEvent == .keyPress k && !w.faulted && w.wait && r.dueEvent == .keyPress k && !r.wait
      && f.dueEvent == .keyPress k && f.faulted) = true := by decide

/-- O15 and O16: a RESET due in a faulted machine. -/
theorem witness_ResetLoadsMemory :
    (faultedState.withEvents [.reset (Launch.ofRom [0x60, 0x0A])]).dueEvent = .reset (Launch.ofRom [0x60, 0x0A]) := rfl

/-- The four clauses of O15 at their bounds: the last font byte, the first zero, the first ROM byte and the zero after it. -/
theorem witness_ResetLoadsMemory_bounds : let t := event (.reset (Launch.ofRom [0x60, 0x0A])) State.reset
    (t.byteAt 79, t.byteAt 80, t.byteAt 0x1FF, t.byteAt 0x200, t.byteAt 0x201, t.byteAt 0x202) = (0x80, 0, 0, 0x60, 0x0A, 0) := by
  decide

/-- O18: a faulted machine with each event but RESET due. -/
theorem witness_FaultedIsTerminal : faultedState.faulted = true ∧ (∀ l, faultedState.dueEvent ≠ .reset l)
    ∧ (∀ l, (faultedState.withEvents [.keyPress 15]).dueEvent ≠ .reset l) :=
  ⟨rfl, fun _ => Event.noConfusion, fun _ => Event.noConfusion⟩

/-- O19: a wait that a key press ends. -/
theorem witness_OnlyKeyPressOrResetEndsAWait : ∃ s t : State, s.wait = true ∧ step s = .next t ∧ t.wait = false :=
  ⟨(State.reset.enterWait 3).withEvents [.keyPress 7], _, rfl, rfl, rfl⟩

/-- The state after one pushed call, with a CALL at PC; it is legal. -/
def inCall : State := standing 0x300 0x2300 |>.push 0x0206

theorem legal_inCall : inCall.Legal where
  sp_le := by decide
  pc_le := by decide
  stack_le := by decide
  stack_zero := by decide
  index_le := by decide
  mem_wf := by decide
  record_clear := by decide
  record_cause := by decide
  not_both := by decide

/-- O21 and O22: a legal state that steps. -/
theorem witness_EveryStepKeepsLegality : ∃ t, inCall.Legal ∧ step inCall = .next t ∧ t.sp = 2 :=
  ⟨nextOf (step inCall), legal_inCall, rfl, by decide⟩

/-- O23: an instruction of each cause that faults. -/
theorem witness_FaultingInstructionHasNoPartialEffect :
    (∀ b a, ({ State.reset with sp := b } : State).faulted = false ∧ (V [(0, b)]).faulted = false
      ∧ (State.reset.writeI a).faulted = false)
    ∧ (∃ t, exec (.callAddr 0x300) { State.reset with sp := 15 } = .next t ∧ t.faulted = true)
    ∧ (∃ t, exec .ret State.reset = .next t ∧ t.faulted = true)
    ∧ (∃ t, exec (.skpVx 0) (V [(0, 0x10)]) = .next t ∧ t.faulted = true)
    ∧ (∃ t, exec (.ldVxMemI 1) (State.reset.writeI 0xFFF) = .next t ∧ t.faulted = true) :=
  ⟨fun _ _ => ⟨rfl, rfl, rfl⟩, ⟨_, rfl, rfl⟩, ⟨_, rfl, rfl⟩, ⟨_, rfl, rfl⟩, ⟨_, rfl, rfl⟩⟩

/-- O24: RET on an empty stack, as a step. -/
theorem witness_FaultingStepRecordsTheOffender : let s := standing 0x200 0x00EE
    s.dueEvent = .cpuTick ∧ s.mode = .running ∧ s.pc.toNat ≤ 0xFFE
    ∧ (0x00EE : Word) = BitVec.ofNat 16 (256 * (s.byteAt s.pc.toNat).toNat + (s.byteAt (s.pc.toNat + 1)).toNat)
    ∧ decode 0x00EE = .ok .ret ∧ step s = .next (nextOf (step s)) ∧ (nextOf (step s)).faulted = true :=
  ⟨rfl, rfl, by decide, by decide, by decide, rfl, by decide⟩

/-- O27 to O30: SP at both ends of each range. -/
theorem witness_stack_ranges : State.reset.sp.toNat < 15 ∧ ({ State.reset with sp := 14 } : State).sp.toNat < 15
    ∧ 15 ≤ ({ State.reset with sp := 15 } : State).sp.toNat ∧ 15 ≤ ({ State.reset with sp := 255 } : State).sp.toNat
    ∧ 1 ≤ inCall.sp.toNat ∧ inCall.sp.toNat ≤ 15 ∧ 1 ≤ ({ State.reset with sp := 15 } : State).sp.toNat
    ∧ ({ State.reset with sp := 15 } : State).sp.toNat ≤ 15 ∧ State.reset.sp.toNat = 0
    ∧ 16 ≤ ({ State.reset with sp := 16 } : State).sp.toNat := by decide

/-- O31: a CALL at 0x204 to a RET at the last address, with fourteen entries in use. -/
theorem witness_CallThenRetReturns : let s := { (standing 0x204 0x2FFE).storeBytes 0xFFE [0x00, 0xEE] with sp := 14 }
    s.events = [] ∧ s.mode = .running ∧ s.sp.toNat ≤ 14 ∧ s.fetch = .ok (encode (.callAddr 0xFFE))
    ∧ (0xFFE : Addr12).toNat ≤ 0xFFE ∧ s.byteAt (0xFFE : Addr12).toNat = 0x00 ∧ s.byteAt ((0xFFE : Addr12).toNat + 1) = 0xEE :=
  ⟨rfl, rfl, by decide, rfl, by decide, by decide, by decide⟩

/-- O36 to O38: a destination that is not VF; the clause of VF has no hypothesis. -/
theorem witness_destination_is_not_VF : (14 : RegIndex) ≠ 15 := by decide

/-- O39: a bit outside the mask. -/
theorem witness_RndMasksAFreeDraw : (0x0F : Byte).getLsbD 7 = false := by decide

/-- O41: both moduli. -/
theorem witness_AddToIndexIsModulo : State.reset.iAddModulus = .m65535
    ∧ ({ State.reset with iAddModulus := .m65536 } : State).iAddModulus = .m65536 := by decide

/-- O42 to O44: I at both sides of the bound, for three bytes, for one and for sixteen; registers up to x. -/
theorem witness_data_ranges : (State.reset.writeI 0xFFD).base + 2 ≤ 0xFFF ∧ 0xFFF < (State.reset.writeI 0xFFE).base + 2
    ∧ (State.reset.writeI 0xFFF).base + (0 : RegIndex).val ≤ 0xFFF ∧ 0xFFF < (State.reset.writeI 0x1000).base + (0 : RegIndex).val
    ∧ (State.reset.writeI 0xFF0).base + (15 : RegIndex).val ≤ 0xFFF
    ∧ 0xFFF < (State.reset.writeI 0xFF1).base + (15 : RegIndex).val ∧ (15 : RegIndex) ≤ 15 ∧ (0 : RegIndex) ≤ 15 := by decide

/-- O46: V1 and V2 stored where PC points. -/
theorem witness_StoredBytesAreFetched : ∃ t, let s := (V [(1, 0x12), (2, 0x34)]).writeI 0x1FF
    s.base + (2 : RegIndex).val ≤ 0xFFF ∧ exec (.ldMemIVx 2) s = .next t ∧ (1 : RegIndex) ≤ 2 ∧ (2 : RegIndex) ≤ 2
    ∧ s.pc.toNat = s.base + (1 : RegIndex).val ∧ (2 : RegIndex).val = (1 : RegIndex).val + 1 :=
  ⟨_, by decide, rfl, by decide, by decide, by decide, by decide⟩

/-- O48 and O49: a lit pixel past the right edge, where the first bit is not, and one that was on. -/
theorem witness_DrawTogglesTheSprite :
    SpriteLights startD4 (startD4.reg 1).toNat (startD4.reg 2).toNat 2 0 5
    ∧ (lit [(0, 5)]).pixel 0 5 = true ∧ startD4.base + 2 - 1 ≤ 0xFFF ∧ (2 : Nat) < 16
    ∧ (tick 0xD122 startD4).pixel 0 6 = startD4.pixel 0 6 :=
  ⟨⟨1, 7, by decide, by decide, by decide, by decide, by decide⟩, by decide, by decide, by decide, by decide⟩

/-- O49 to O51: the row counts 0 and 15 at the bound of memory, and beyond it; x and y that are not VF. -/
theorem witness_draw_ranges : (0 : Nat) < 16 ∧ (15 : Nat) < 16 ∧ (State.reset.writeI 0xFF1).base + 15 - 1 ≤ 0xFFF
    ∧ 1 ≤ 15 ∧ 0xFFF < (State.reset.writeI 0xFF2).base + 15 - 1 ∧ 0xFFF < (State.reset.writeI 0x1000).base + 1 - 1
    ∧ (1 : RegIndex) ≠ 15 ∧ (2 : RegIndex) ≠ 15 := by decide

/-- O52 and O53: the key indices at the bounds. -/
theorem witness_key_ranges : ((V [(0, 0x00)]).reg 0).toNat = (0 : Fin 16).val ∧ ((V [(0, 0x0F)]).reg 0).toNat = (15 : Fin 16).val
    ∧ 15 < ((V [(0, 0x10)]).reg 0).toNat ∧ 15 < ((V [(0, 0xFF)]).reg 0).toNat := by decide

/-- O55: a waiting machine, not faulted, with a CPU_TICK due, and with a KEY_PRESS due. -/
theorem witness_WaitForKeySuspends : (State.reset.enterWait 15).wait = true ∧ (State.reset.enterWait 15).faulted = false
    ∧ (State.reset.enterWait 15).dueEvent = .cpuTick
    ∧ ((State.reset.enterWait 15).withEvents [.keyPress 15]).wait = true
    ∧ ((State.reset.enterWait 15).withEvents [.keyPress 15]).faulted = false
    ∧ ((State.reset.enterWait 15).withEvents [.keyPress 15]).dueEvent = .keyPress 15 := by decide

/-- O56: each of the three changes I. -/
theorem witness_OnlyThreeInstructionsChangeI :
    [Instr.ldIAddr 0x300, .addIVx 0, .ldFVx 0].all (fun i => decide ((nextOf (exec i (V [(0, 0x01)]))).i ≠ 0)) = true
    ∧ (∃ t, exec (.ldIAddr 0x300) (V [(0, 0x01)]) = .next t) := ⟨by decide, _, rfl⟩

/-- O57: both change a byte at the bound of memory. -/
theorem witness_OnlyTwoInstructionsStoreToMemory :
    ((nextOf (exec (.ldBVx 0) ((V [(0, 0xFF)]).writeI 0xFFD))).byteAt 0xFFF ≠ 0x00
      ∧ (nextOf (exec (.ldMemIVx 0) ((V [(0, 0xFF)]).writeI 0xFFF))).byteAt 0xFFF ≠ 0x00)
    ∧ (∃ t, exec (.ldMemIVx 0) ((V [(0, 0xFF)]).writeI 0xFFF) = .next t) := ⟨by decide, _, rfl⟩

/-- O58: for each clause an instruction that changes the part. -/
theorem witness_WhichInstructionsReachTheDevices :
    ((nextOf (exec (.callAddr 0x300) State.reset)).sp ≠ 0 ∧ (nextOf (exec (.callAddr 0x300) State.reset)).stack ≠ State.reset.stack)
    ∧ (nextOf (exec .ret inCall)).sp ≠ inCall.sp
    ∧ (nextOf (exec (.ldVxK 0) State.reset)).wait ≠ false
    ∧ (nextOf (exec (.drwVxVyNibble 0 0 5) State.reset)).pixel 0 0 ≠ false
    ∧ (nextOf (exec .cls (State.reset.writeFb (lit [(31, 63)])))).pixel 31 63 ≠ true
    ∧ (nextOf (exec (.ldDTVx 0) (V [(0, 0x01)]))).dt ≠ 0 ∧ (nextOf (exec (.ldSTVx 0) (V [(0, 0x01)]))).st ≠ 0
    ∧ (nextOf (exec (.rndVxByte 0 0x00) State.reset)).draws ≠ 0 := by decide

theorem witness_WhichInstructionsReachTheDevices_next : ∃ t, exec .ret inCall = .next t ∧ t.sp ≠ inCall.sp :=
  ⟨_, rfl, by decide⟩

/-- O59: a flag writer and a plain write of VF. -/
theorem witness_WhichInstructionsWriteVF :
    (∃ t, exec (.addVxVy 0 1) (V [(0, 0xFF), (1, 0x01)]) = .next t ∧ t.reg 15 ≠ (V [(0, 0xFF), (1, 0x01)]).reg 15)
    ∧ (∃ t, exec (.ldVxByte 15 0x07) State.reset = .next t ∧ t.reg 15 ≠ State.reset.reg 15) :=
  ⟨⟨_, rfl, by decide⟩, ⟨_, rfl, by decide⟩⟩

end Sys2Proof.Tests
end

section
/-! # Legal states (10_state.md R12, R14, R15, R22)

Every step from a legal state answers a next state, and that state is legal. Each update of the state keeps legality, under
the bound its field has to respect; each instruction and each event is a composition of such updates, or raises. -/

namespace Sys2Proof.Machine

/-! ## Updates of fields that legality does not speak of -/

namespace State.Legal

variable {s : State}

theorem writeReg (h : s.Legal) (x : RegIndex) (b : Byte) : (s.writeReg x b).Legal := { h with }

theorem writeResultThenFlag (h : s.Legal) (x : RegIndex) (b f : Byte) : (s.writeResultThenFlag x b f).Legal := { h with }

theorem loadRegs (h : s.Legal) (bytes : List Byte) : (s.loadRegs bytes).Legal := { h with }

theorem writeFb (h : s.Legal) (fb : Framebuffer) : (s.writeFb fb).Legal := { h with }

theorem writeDT (h : s.Legal) (b : Byte) : (s.writeDT b).Legal := { h with }

theorem writeST (h : s.Legal) (b : Byte) : (s.writeST b).Legal := { h with }

theorem writeKey (h : s.Legal) (k : Fin 16) (b : Bool) : (s.writeKey k b).Legal := { h with }

theorem countDraw (h : s.Legal) : s.countDraw.Legal := { h with }

theorem setTickResult (h : s.Legal) (r : TickResult) : (s.setTickResult r).Legal := { h with }

theorem taken (h : s.Legal) : s.taken.Legal := { h with }

/-! ## Updates that have a bound to respect -/

/-- PC may go anywhere up to 0x10FE (R12). -/
theorem writePc (h : s.Legal) {a : Word} (ha : a.toNat ≤ 0x10FE) : (s.writePc a).Legal :=
  { h with pc_le := ha }

/-- With the default modulus I may hold anything up to 65534 (R121). -/
theorem writeI (h : s.Legal) {a : Word} (ha : s.iAddModulus = .m65535 → a.toNat ≤ 65534) : (s.writeI a).Legal :=
  { h with index_le := ha }

/-- A push below the overflow check keeps SP in range and never reaches entry 0 (R15, R83). -/
theorem push (h : s.Legal) {a : Word} (hsp : s.sp.toNat < 15) (ha : a.toNat ≤ 0x1000) : (s.push a).Legal := by
  have hsp' : (s.sp + 1).toNat = s.sp.toNat + 1 := s.sp_push a hsp
  exact { h with
    sp_le := by rw [State.push_sp, hsp']; omega
    stack_le := fun k => by
      simp only [State.push_stack, Vector.getElem_setIfInBounds]
      split
      · exact ha
      · exact h.stack_le k
    stack_zero := by
      simp only [State.push_stack, hsp', Vector.getElem_setIfInBounds, Nat.succ_ne_zero, if_false, h.stack_zero] }

/-- A pop above the underflow check keeps SP in range (R84). -/
theorem dropTop (h : s.Legal) (hsp : 1 ≤ s.sp.toNat) : s.dropTop.Legal := by
  have hle := h.sp_le
  exact { h with sp_le := by rw [State.dropTop_sp]; bv_omega }

/-- A store inside the address space keeps memory canonical (R43). -/
theorem storeBytes (h : s.Legal) {a : Nat} {bytes : List Byte} (ha : a + bytes.length ≤ Config.memSize) :
    (s.storeBytes a bytes).Legal :=
  { h with mem_wf := Memory.wf_writeBytes bytes s.mem a h.mem_wf ha }

/-- Only a machine that is not faulted may begin to wait (R34). -/
theorem enterWait (h : s.Legal) (hf : s.faulted = false) (x : RegIndex) : (s.enterWait x).Legal :=
  { h with not_both := by simp [hf] }

theorem leaveWait (h : s.Legal) : s.leaveWait.Legal := { h with not_both := by simp }

/-- Only a machine that is not waiting may fault, and with a cause (R34, R151). -/
theorem raiseFault (h : s.Legal) (hw : s.wait = false) {c : FaultCause} (hc : c ≠ .none) (info : Nat) (op pc0 : Word) :
    (s.raiseFault c info op pc0).Legal :=
  { h with
    record_clear := by simp
    record_cause := fun _ => hc
    not_both := by simp [hw] }

end State.Legal

theorem legal_reset : State.reset.Legal where
  sp_le := by decide
  pc_le := by decide
  stack_le := fun k => by simp [State.reset]
  stack_zero := rfl
  index_le := fun _ => by decide
  mem_wf := wf_reset
  record_clear := fun _ => ⟨rfl, rfl, rfl, rfl⟩
  record_cause := by simp
  not_both := by simp

/-- RESET leaves a legal state, whatever the state before and the modulus of the launch (R180, R181). -/
theorem legal_resetMachine (l : Launch) (s : State) : (resetMachine l s).Legal :=
  { legal_reset with
    index_le := fun _ => legal_reset.index_le rfl
    mem_wf := wf_memLoad l }

/-! ## Instructions -/

/-- A widened `nnn` field is an address of memory (R65). -/
theorem zext16_addr_le (nnn : Addr12) : (zext16 nnn).toNat ≤ 0xFFF := by
  rw [BitVec.toNat_setWidth_of_le (by decide)]
  exact Nat.le_of_lt_succ nnn.isLt

/-- What holds of the state in which a tick executes its instruction: legal and running, with PC advanced past a word that was
fetched from inside memory (R60, R61). -/
structure State.AtExec (s : State) : Prop where
  legal : s.Legal
  not_faulted : s.faulted = false
  not_waiting : s.wait = false
  pc_le : s.pc.toNat ≤ 0x1000

/-- The outcome is a next state, and a legal one. -/
def AnswersLegal (r : Result) : Prop := ∃ t, r = .next t ∧ t.Legal

theorem AnswersLegal.next {t : State} (h : t.Legal) : AnswersLegal (.next t) := ⟨t, rfl, h⟩

namespace State.AtExec

variable {s : State}

theorem answersLegal_raiseIn (h : s.AtExec) (op : Word) {c : FaultCause} (hc : c ≠ .none) (info : Nat) :
    AnswersLegal (s.raiseIn op c info) :=
  .next (h.legal.raiseFault h.not_waiting hc info op _)

/-- A data access raises, or has its effect with every byte inside memory (R126). -/
theorem answersLegal_withData (h : s.AtExec) (op : Word) {n : Nat} {t : State}
    (ht : n = 0 ∨ s.base + n - 1 ≤ 0xFFF → t.Legal) :
    AnswersLegal (s.withData op n t) := by
  by_cases hn : n = 0 ∨ s.base + n - 1 ≤ 0xFFF
  · rw [withData_next s op n t hn]
    exact .next (ht hn)
  · rw [State.withData, dataFault_some s n (by omega) (by omega)]
    exact h.answersLegal_raiseIn op (by decide) _

/-- A skip moves PC to at most 0x1002. -/
theorem answersLegal_skipIf (h : s.AtExec) (c : Bool) : AnswersLegal (.next (s.skipIf c)) := by
  cases c with
  | false => exact .next h.legal
  | true =>
    have := h.pc_le
    exact .next (h.legal.writePc (by bv_omega))

/-- The store instructions: as many bytes as the check was asked for. -/
theorem answersLegal_store (h : s.AtExec) (op : Word) {n : Nat} {bytes : List Byte} (hlen : bytes.length = n + 1) :
    AnswersLegal (s.withData op (n + 1) (s.storeBytes s.base bytes)) :=
  h.answersLegal_withData op fun hn => h.legal.storeBytes (by rw [Config.memSize]; omega)

/-- CALL pushes a PC of at most 0x1000, or raises (R83). -/
theorem answersLegal_execCallAddr (h : s.AtExec) (nnn : Addr12) : AnswersLegal (execCallAddr nnn s) := by
  unfold execCallAddr
  split
  · exact h.answersLegal_raiseIn _ (by decide) _
  next hsp => exact .next ((h.legal.push (by omega) h.pc_le).writePc ((zext16_addr_le nnn).trans (by decide)))

/-- RET goes to a stack entry, or raises: a legal SP names an entry, so it never stops (R84, log 7). -/
theorem answersLegal_execRet (h : s.AtExec) : AnswersLegal (execRet s) := by
  have hsp : s.sp.toNat < 16 := Nat.lt_succ_of_le h.legal.sp_le
  have hentry : (s.stack[s.sp.toNat]).toNat ≤ 0x1000 := h.legal.stack_le ⟨s.sp.toNat, hsp⟩
  unfold execRet
  split
  · exact h.answersLegal_raiseIn _ (by decide) _
  next hne =>
    rw [State.stackTop_eq, dif_pos hsp]
    exact .next ((h.legal.writePc (by omega)).dropTop (Nat.one_le_iff_ne_zero.mpr hne))

theorem answersLegal_execSkpVx (h : s.AtExec) (x : RegIndex) : AnswersLegal (execSkpVx x s) := by
  unfold execSkpVx
  split
  · exact h.answersLegal_skipIf _
  · exact h.answersLegal_raiseIn _ (by decide) _

theorem answersLegal_execSknpVx (h : s.AtExec) (x : RegIndex) : AnswersLegal (execSknpVx x s) := by
  unfold execSknpVx
  split
  · exact h.answersLegal_skipIf _
  · exact h.answersLegal_raiseIn _ (by decide) _

/-- JP V0 reaches at most 255 + 4095 = 0x10FE (R12, R82). -/
theorem answersLegal_execJpV0Addr (h : s.AtExec) (nnn : Addr12) : AnswersLegal (execJpV0Addr nnn s) := by
  have hv : s.regNat 0 < 256 := (s.reg 0).isLt
  have hn := nnn.isLt
  exact .next (h.legal.writePc (by rw [BitVec.toNat_ofNat]; omega))

/-- ADD I,Vx reduces modulo 65535 when that is the modulus (R121). -/
theorem answersLegal_execAddIVx (h : s.AtExec) (x : RegIndex) : AnswersLegal (execAddIVx x s) :=
  .next (h.legal.writeI fun hm => by rw [hm, IAddModulus.toNat, BitVec.toNat_ofNat]; omega)

/-- LD F,Vx reaches at most 255 * 5 (R122). -/
theorem answersLegal_execLdFVx (h : s.AtExec) (x : RegIndex) : AnswersLegal (execLdFVx x s) := by
  have hv : s.regNat x < 256 := (s.reg x).isLt
  exact .next (h.legal.writeI fun _ => by rw [BitVec.toNat_ofNat]; omega)

/-- Every instruction answers a legal state. -/
theorem answersLegal_exec (h : s.AtExec) (i : Instr) : AnswersLegal (exec i s) := by
  cases i with
  | cls => exact .next (h.legal.writeFb _)
  | ret => exact h.answersLegal_execRet
  | jpAddr nnn => exact .next (h.legal.writePc ((zext16_addr_le nnn).trans (by decide)))
  | callAddr nnn => exact h.answersLegal_execCallAddr nnn
  | seVxByte x _ | sneVxByte x _ | seVxVy x _ | sneVxVy x _ => exact h.answersLegal_skipIf _
  | ldVxByte x _ | addVxByte x _ | ldVxVy x _ | orVxVy x _ | andVxVy x _ | xorVxVy x _ | ldVxDT x =>
    exact .next (h.legal.writeReg x _)
  | addVxVy x _ | subVxVy x _ | shrVx x _ | subnVxVy x _ | shlVx x _ =>
    exact .next (h.legal.writeResultThenFlag x _ _)
  | ldIAddr nnn => exact .next (h.legal.writeI fun _ => (zext16_addr_le nnn).trans (by decide))
  | jpV0Addr nnn => exact h.answersLegal_execJpV0Addr nnn
  | rndVxByte x _ => exact .next (h.legal.writeReg x _).countDraw
  | drwVxVyNibble x y n => exact h.answersLegal_withData _ fun _ => (h.legal.writeFb _).writeReg vf _
  | skpVx x => exact h.answersLegal_execSkpVx x
  | sknpVx x => exact h.answersLegal_execSknpVx x
  | ldVxK x => exact .next (h.legal.enterWait h.not_faulted x)
  | ldDTVx x => exact .next (h.legal.writeDT _)
  | ldSTVx x => exact .next (h.legal.writeST _)
  | addIVx x => exact h.answersLegal_execAddIVx x
  | ldFVx x => exact h.answersLegal_execLdFVx x
  | ldBVx x => exact h.answersLegal_store _ (n := 2) rfl
  | ldMemIVx x => exact h.answersLegal_store _ (s.length_regsUpTo x)
  | ldVxMemI x => exact h.answersLegal_withData _ fun _ => h.legal.loadRegs _

end State.AtExec

/-! ## Events -/

namespace State.Legal

variable {s : State}

/-- A running tick: a fetch fault, one instruction past a fetched word, or the report of an unsupported word (R61). -/
theorem answersLegal_runInstruction (h : s.Legal) (hm : s.mode = .running) : AnswersLegal (runInstruction s) := by
  obtain ⟨hf, hw⟩ := (mode_running s).mp hm
  rcases runInstruction_cases s with ⟨-, hrun⟩ | ⟨hpc, op, -, hop⟩
  · exact hrun ▸ .next (h.raiseFault hw (by decide) _ _ _)
  · have hpc' : (s.pc + 2).toNat ≤ 0x1000 := by bv_omega
    have hadv : s.advance.Legal := (h.writePc (by omega)).setTickResult _
    rcases hop with ⟨i, -, hrun⟩ | ⟨-, hrun⟩
    · exact hrun ▸ State.AtExec.answersLegal_exec ⟨hadv, hf, hw, hpc'⟩ i
    · exact hrun ▸ .next (hadv.setTickResult _)

theorem timerTick (h : s.Legal) : (timerTick s).Legal := by
  unfold Machine.timerTick
  split
  · exact h
  · exact (h.writeDT _).writeST _

theorem keySet (h : s.Legal) (k : Fin 16) (b : Bool) : (keySet k b s).Legal := by
  unfold Machine.keySet
  split
  · exact h
  · exact h.writeKey k b

theorem keyPress (h : s.Legal) (k : Fin 16) : (keyPress k s).Legal := by
  unfold Machine.keyPress
  split
  · exact (h.writeReg _ _).leaveWait
  · exact h

/-- Progress and preservation in one: the step of a legal state answers a legal state. -/
theorem answersLegal_step (h : s.Legal) : AnswersLegal (step s) := by
  rcases step_cases s with ⟨l, -, hs⟩ | ⟨-, hs⟩ | ⟨k, b, -, hs⟩ | ⟨k, -, hs⟩ | ⟨-, -, hs⟩ | ⟨-, -, -, hs⟩ | ⟨-, hm, hs⟩
  · exact ⟨_, hs, legal_resetMachine l _⟩
  · exact ⟨_, hs, h.taken.timerTick⟩
  · exact ⟨_, hs, h.taken.keySet k b⟩
  · exact ⟨_, hs, h.taken.keyPress k⟩
  · exact ⟨_, hs, h.taken.setTickResult _⟩
  · exact ⟨_, hs, h.taken.setTickResult _⟩
  · exact hs ▸ h.taken.answersLegal_runInstruction hm

end State.Legal

/-- Settles O21: the legal state a step is known to answer is the one it answers. -/
theorem everyStepKeepsLegality : Obligations.EveryStepKeepsLegality := by
  intro s t hs ht
  obtain ⟨u, hu, hlegal⟩ := hs.answersLegal_step
  exact next_inj (hu.symm.trans ht) ▸ hlegal

/-- Settles O22, from the same lemma. -/
theorem legalStatesAlwaysStep : Obligations.LegalStatesAlwaysStep := fun _ hs =>
  let ⟨t, ht, _⟩ := hs.answersLegal_step
  ⟨t, ht⟩

end Sys2Proof.Machine
end

section
/-! # Who writes what (10_state.md R11, R13 to R21)

`exec_split` bounds what an instruction can change by `effectParts`; reading that table backwards says which instructions have
a given part in their reach. -/

namespace Sys2Proof.Machine

/-- A part that an instruction changes, other than what every fault writes, is in the reach of its effect. -/
theorem mem_effectParts_of_changed {i : Instr} {s t : State} {p : Part} (h : exec i s = .next t)
    (hfault : p ∉ [Part.faultRecord, Part.tickResult]) (hchanged : ¬ p.Same s t) : p ∈ effectParts i := by
  by_contra hp
  rcases exec_split h with honly | ⟨_, _, _, _, _, _, _, _, _, honly⟩
  · exact hchanged (honly p hp)
  · exact hchanged (honly p hfault)

/-! ## The table of `effectParts`, read by part -/

theorem index_mem_effectParts {i : Instr} (h : .index ∈ effectParts i) :
    (∃ nnn, i = .ldIAddr nnn) ∨ (∃ x, i = .addIVx x) ∨ (∃ x, i = .ldFVx x) := by
  cases i <;> simp [effectParts] at h ⊢

theorem stack_mem_effectParts {i : Instr} (h : .stackPointer ∈ effectParts i ∨ .stackEntries ∈ effectParts i) :
    (∃ nnn, i = .callAddr nnn) ∨ i = .ret := by
  cases i <;> simp [effectParts] at h ⊢

theorem wait_mem_effectParts {i : Instr} (h : .wait ∈ effectParts i) : ∃ x, i = .ldVxK x := by
  cases i <;> simp [effectParts] at h ⊢

theorem display_mem_effectParts {i : Instr} (h : .display ∈ effectParts i) :
    i = .cls ∨ ∃ x y n, i = .drwVxVyNibble x y n := by
  cases i <;> simp [effectParts] at h ⊢

theorem delayTimer_mem_effectParts {i : Instr} (h : .delayTimer ∈ effectParts i) : ∃ x, i = .ldDTVx x := by
  cases i <;> simp [effectParts] at h ⊢

theorem soundTimer_mem_effectParts {i : Instr} (h : .soundTimer ∈ effectParts i) : ∃ x, i = .ldSTVx x := by
  cases i <;> simp [effectParts] at h ⊢

theorem draws_mem_effectParts {i : Instr} (h : .draws ∈ effectParts i) : ∃ x kk, i = .rndVxByte x kk := by
  cases i <;> simp [effectParts] at h ⊢

theorem keys_notMem_effectParts (i : Instr) : .keys ∉ effectParts i := by
  cases i <;> simp [effectParts]

/-- VF is in the reach of the flag instructions, and of those whose destination it is. -/
theorem vf_mem_effectParts {i : Instr} (h : .reg 15 ∈ effectParts i) :
    ((∃ x y, i = .addVxVy x y ∨ i = .subVxVy x y ∨ i = .shrVx x y ∨ i = .subnVxVy x y ∨ i = .shlVx x y)
      ∨ (∃ x y n, i = .drwVxVyNibble x y n)) ∨
    ((∃ kk, i = .ldVxByte 15 kk ∨ i = .addVxByte 15 kk ∨ i = .rndVxByte 15 kk)
      ∨ (∃ y, i = .ldVxVy 15 y ∨ i = .orVxVy 15 y ∨ i = .andVxVy 15 y ∨ i = .xorVxVy 15 y)
      ∨ i = .ldVxDT 15 ∨ i = .ldVxMemI 15) := by
  cases i with
  | ldVxMemI x => -- the only destination that is a range of registers
    have hx : (15 : RegIndex) ≤ x := by simpa [effectParts] using h
    simp [Fin.last_le_iff.mp hx]
  | _ => simp_all [effectParts, eq_comm]

/-! ## The obligations -/

/-- Settles O56. -/
theorem onlyThreeInstructionsChangeI : Obligations.OnlyThreeInstructionsChangeI := fun _ _ _ h hi =>
  index_mem_effectParts (mem_effectParts_of_changed h (by decide) hi)

/-- Settles O58. -/
theorem whichInstructionsReachTheDevices : Obligations.WhichInstructionsReachTheDevices := by
  intro i s t h
  have reach {p : Part} := mem_effectParts_of_changed (p := p) h
  refine ⟨fun hstack => stack_mem_effectParts ?_, fun hwait => wait_mem_effectParts ?_,
    fun ⟨r, c, hpixel⟩ => display_mem_effectParts ?_, fun hdt => delayTimer_mem_effectParts ?_,
    fun hst => soundTimer_mem_effectParts ?_, fun hdraws => draws_mem_effectParts ?_, ?_⟩
  · exact hstack.imp (reach (by decide)) (reach (by decide))
  · exact reach (by decide) hwait
  · exact reach (by decide) fun hsame => hpixel (hsame r c)
  · exact reach (by decide) hdt
  · exact reach (by decide) hst
  · exact reach (by decide) hdraws
  · by_contra hkeys
    exact keys_notMem_effectParts i (reach (by decide) hkeys)

/-- Settles O59. -/
theorem whichInstructionsWriteVF : Obligations.WhichInstructionsWriteVF := fun _ _ _ h hvf =>
  vf_mem_effectParts (mem_effectParts_of_changed h (by decide) hvf)

end Sys2Proof.Machine
end

section
/-! # RESET (70_reset_and_hazards.md R180) -/

namespace Sys2Proof.Machine

/-- A due RESET is performed in every mode (R31, R153). -/
theorem step_of_due_reset {s : State} {l : Launch} (h : s.dueEvent = .reset l) : step s = .next (resetMachine l s.taken) := by
  rw [step, nextEvent, h, perform]

@[simp] theorem resetMachine_pixel (l : Launch) (s : State) (r : Fin 32) (c : Fin 64) :
    (resetMachine l s).pixel r c = false := Framebuffer.pixel_blank r c

@[simp] theorem resetMachine_reg (l : Launch) (s : State) (x : RegIndex) : (resetMachine l s).reg x = 0 := by
  simp [State.reg, State.reset]

theorem resetMachine_stack_entry (l : Launch) (s : State) (k : Fin 16) :
    (resetMachine l s).stack[k.val]'k.isLt = 0 := by
  simp [State.reset]

@[simp] theorem resetMachine_key (l : Launch) (s : State) (k : Fin 16) : (resetMachine l s).key k = false := by
  simp [State.key, State.reset]

/-- Settles O16: the scalar registers hold the literals of `State.reset`, the vectors are constant. -/
theorem resetSetsEveryRegister : Obligations.ResetSetsEveryRegister := by
  intro s l h
  exact ⟨_, step_of_due_reset h, rfl, rfl, resetMachine_pixel l _, resetMachine_reg l _, rfl, resetMachine_stack_entry l _,
    rfl, rfl, rfl, rfl, resetMachine_key l _, rfl, rfl, rfl, rfl, rfl, rfl, rfl, rfl, rfl⟩

end Sys2Proof.Machine
end

section
/-! # Memory (20_memory.md)

What RESET loads, what the store instructions write and what the fetch reads, each through the laws of `byteAt`. -/

namespace Sys2Proof.Machine

/-! ## What RESET loads (R46, R47) -/

/-- The font from 0x000, the first 3584 bytes of the ROM from 0x200, and zero in every other byte. -/
theorem read_memLoad (l : Launch) (a : Nat) :
    Memory.read (memLoad l) a =
      if h : a < 80 then l.font[a]
      else if 0x200 ≤ a ∧ a < 0x200 + min l.rom.length 3584 then l.rom.getD (a - 0x200) 0x00
      else 0x00 := by
  rw [memLoad, Memory.read_writeBytes, Memory.read_writeBytes, Memory.read_nil, resetByte, Config.progBase, Config.progMax]
  by_cases hfont : a < 80
  · have hbelow : ¬ 0x200 ≤ a := by omega
    simp [hfont, hbelow]
  · by_cases hrom : 0x200 ≤ a ∧ a < 0x200 + min l.rom.length 3584
    · obtain ⟨hlow, hhigh⟩ := hrom
      have hmax : a - 0x200 < 3584 := by omega
      simp [hfont, hlow, hhigh, hmax]
    · have hnone (hlow : 0x200 ≤ a) : (l.rom.take 3584)[a - 0x200]? = none :=
        List.getElem?_eq_none (by rw [List.length_take]; omega)
      by_cases hlow : 0x200 ≤ a
      · simp [hfont, hrom, hnone hlow]
      · simp [hfont, hlow]

/-- Settles O15. -/
theorem resetLoadsMemory : Obligations.ResetLoadsMemory := fun _ l h =>
  ⟨_, step_of_due_reset h, read_memLoad l⟩

/-- Settles O17: `State.reset` holds the register values that RESET sets whatever the launch, and its memory lists nothing. -/
theorem resetStateValues : Obligations.ResetStateValues := by
  let l := Launch.ofRom []
  exact ⟨rfl, rfl, resetMachine_pixel l State.reset, rfl, resetMachine_reg l State.reset, rfl, rfl, rfl,
    resetMachine_key l State.reset, resetMachine_stack_entry l State.reset, rfl, rfl, rfl, rfl, rfl, rfl, rfl, rfl, rfl, rfl,
    Memory.read_nil⟩

/-! ## What the store instructions write (R41, R54) -/

theorem memory_mem_effectParts {i : Instr} (h : .memory ∈ effectParts i) :
    (∃ x, i = .ldBVx x) ∨ (∃ x, i = .ldMemIVx x) := by
  cases i <;> simp [effectParts] at h ⊢

/-- A run of stores changes only the bytes it reaches. -/
theorem bounds_of_storeBytes_changed {s : State} {a c : Nat} {bytes : List Byte}
    (h : (s.storeBytes a bytes).byteAt c ≠ s.byteAt c) : a ≤ c ∧ c < a + bytes.length := by
  rw [byteAt_storeBytes] at h
  by_cases hlow : a ≤ c
  · refine ⟨hlow, ?_⟩
    by_contra hhigh
    simp [List.getElem?_eq_none (show bytes.length ≤ c - a by omega)] at h
  · exact absurd (if_neg hlow) h

/-- A byte that a checked store from I changes lies in memory: a fault would have changed none (R126, R155). -/
theorem address_le_of_store_changed {s t : State} {op : Word} {bytes : List Byte} {a : Nat}
    (h : s.withData op bytes.length (s.storeBytes s.base bytes) = .next t) (hchanged : t.byteAt a ≠ s.byteAt a) :
    a ≤ 0xFFF := by
  rcases withData_cases s op _ _ t h with ⟨hin, rfl⟩ | ⟨-, -, -, -, -, -, -, -, hframe⟩
  · obtain ⟨hlow, hhigh⟩ := bounds_of_storeBytes_changed hchanged
    omega
  · exact absurd (hframe .memory (by decide) a) hchanged

/-- Settles O57: memory is in the reach of the two store instructions only, and each stores as many bytes as it checks. -/
theorem onlyTwoInstructionsStoreToMemory : Obligations.OnlyTwoInstructionsStoreToMemory := by
  intro i s t a h hchanged
  have hi := memory_mem_effectParts (mem_effectParts_of_changed h (by decide) fun hsame => hchanged (hsame a))
  refine ⟨?_, hi⟩
  rcases hi with ⟨x, rfl⟩ | ⟨x, rfl⟩
  · exact address_le_of_store_changed (bytes := decimalDigits (s.regNat x)) h hchanged
  · exact address_le_of_store_changed (bytes := s.regsUpTo x) (by rw [s.length_regsUpTo]; exact h) hchanged

/-- LD [I],Vx inside memory stores the registers up to `x` from I (R124). -/
theorem exec_ldMemIVx_next {x : RegIndex} {s : State} (h : s.base + x.val ≤ 0xFFF) :
    exec (.ldMemIVx x) s = .next (s.storeBytes s.base (s.regsUpTo x)) :=
  withData_next s _ _ _ (.inr h)

/-- The byte at `I + j` after the store of the registers up to `x` is `V[j]`. -/
theorem byteAt_storeBytes_regsUpTo {x j : RegIndex} (s : State) (h : j ≤ x) :
    (s.storeBytes s.base (s.regsUpTo x)).byteAt (s.base + j.val) = s.reg j := by
  rw [byteAt_storeBytes, if_pos (Nat.le_add_right _ _), Nat.add_sub_cancel_left, State.getElem?_regsUpTo, dif_pos j.isLt,
    if_pos (Fin.le_def.mp h), Option.getD_some]

/-- Settles O46: the fetch reads two neighbouring bytes of the stored range, the one at the lower address first. -/
theorem storedBytesAreFetched : Obligations.StoredBytesAreFetched := by
  intro x j k s t hbound h hj hk hpc hjk
  obtain rfl := next_inj ((exec_ldMemIVx_next hbound).symm.trans h)
  have hk' : k.val ≤ x.val := hk
  have hlow : s.pc.toNat + 1 = s.base + k.val := by omega
  rw [fetch_ok _ (by rw [State.storeBytes_pc]; omega), State.storeBytes_pc, hlow, hpc, byteAt_storeBytes_regsUpTo s hj,
    byteAt_storeBytes_regsUpTo s hk, append_eq_ofNat]

/-! ## The fetch above memory (R44) -/

/-- A due CPU_TICK of a running machine runs an instruction cycle (R60). -/
theorem step_of_running_tick {s : State} (h : s.dueEvent = .cpuTick) (hm : s.mode = .running) :
    step s = runInstruction s.taken := by
  obtain ⟨hf, hw⟩ := (mode_running s).mp hm
  simp [step, nextEvent, h, perform, cpuTick, hf, hw]

/-- A cycle whose fetch reaches above 0xFFF raises FetchOutOfRange and does nothing else (R44, R154). -/
theorem runInstruction_of_fetch_above {s : State} (h : 0xFFE < s.pc.toNat) :
    runInstruction s = .next
      (s.raiseFault .fetchOutOfRange (if 0xFFF < s.pc.toNat then s.pc.toNat else 0x1000) 0x0000 s.pc) := by
  rw [runInstruction, fetch_error s h]

/-- Settles O10: the first address above 0xFFF fits FAULT_ADDR. -/
theorem fetchAboveMemoryFaults : Obligations.FetchAboveMemoryFaults := by
  intro s hdue hmode hpc
  have haddr : (if 0xFFF < s.pc.toNat then s.pc.toNat else 0x1000) < 65536 := by
    have := s.pc.isLt
    split <;> omega
  have hraised := raised_raiseFault s.taken .fetchOutOfRange _ 0x0000 s.pc haddr
  exact ⟨_, (step_of_running_tick hdue hmode).trans (runInstruction_of_fetch_above hpc), hraised, hraised.faultCauseCode_eq⟩

end Sys2Proof.Machine
end

section
/-! # Decoding and encoding (30_encoding.md)

The rows of the opcode map exclude one another, so `decode` answers the instruction of any row that accepts the word. The row
of an encoding reads back the operands put there, and a row loses no bit of a word it accepts. -/

namespace Sys2Proof

/-! ## At most one row accepts a word (R63) -/

/-- The patterns of two rows differ on a bit that both masks keep. -/
def OpcodeRow.clashes (r q : OpcodeRow) : Bool := r.pattern &&& q.mask != q.pattern &&& r.mask

/-- A word that both rows accept has both patterns on the bits that both masks keep. -/
theorem OpcodeRow.not_both_accept {r q : OpcodeRow} (h : r.clashes q = true) (op : Word) :
    ¬ (r.accepts op = true ∧ q.accepts op = true) := by
  rintro ⟨hr, hq⟩
  have hr : op &&& r.mask = r.pattern := beq_iff_eq.mp hr
  have hq : op &&& q.mask = q.pattern := beq_iff_eq.mp hq
  have hsame : r.pattern &&& q.mask = q.pattern &&& r.mask := by
    rw [← hr, ← hq, BitVec.and_assoc, BitVec.and_assoc, BitVec.and_comm r.mask]
  exact absurd hsame (bne_iff_ne.mp h)

theorem opcodeTable_pairwise_not_both_accept (op : Word) :
    opcodeTable.Pairwise fun r q => ¬ (r.accepts op = true ∧ q.accepts op = true) :=
  (show opcodeTable.Pairwise fun r q => r.clashes q = true by decide).imp fun h => OpcodeRow.not_both_accept h op

theorem row_eq_of_accepts {op : Word} {r q : OpcodeRow} (hr : r ∈ opcodeTable) (hq : q ∈ opcodeTable)
    (hra : r.accepts op = true) (hqa : q.accepts op = true) : r = q := by
  have : Std.Symm fun r q : OpcodeRow => ¬ (r.accepts op = true ∧ q.accepts op = true) := ⟨fun _ _ h hc => h hc.symm⟩
  by_contra hne
  exact (opcodeTable_pairwise_not_both_accept op).forall hr hq hne ⟨hra, hqa⟩

/-- The row that accepts a word decides what the word decodes to, wherever it stands in the map. -/
theorem decode_of_accepts {op : Word} {r : OpcodeRow} (hr : r ∈ opcodeTable) (ha : r.accepts op = true) :
    decode op = .ok (r.build op) := by
  rcases decode_cases op with ⟨q, hq, hqa, hd⟩ | ⟨hnone, -⟩
  · rw [hd, row_eq_of_accepts hr hq ha hqa]
  · exact absurd ha (by simp [hnone r hr])

/-- Settles O4. -/
theorem noWordMatchesTwoRows : Obligations.NoWordMatchesTwoRows := ⟨rfl, opcodeTable_pairwise_not_both_accept⟩

/-! ## Decoding an encoding (R64 to R66) -/

/-- Some row accepts the encoding of an instruction and builds it back. -/
theorem encodeRow_statement : ∀ i : Instr, Laws.EncodeRow.Statement i
  | .cls => Laws.EncodeRow.cls
  | .ret => Laws.EncodeRow.ret
  | .jpAddr nnn => Laws.EncodeRow.jpAddr nnn
  | .callAddr nnn => Laws.EncodeRow.callAddr nnn
  | .seVxByte x kk => Laws.EncodeRow.seVxByte x kk
  | .sneVxByte x kk => Laws.EncodeRow.sneVxByte x kk
  | .seVxVy x y => Laws.EncodeRow.seVxVy x y
  | .ldVxByte x kk => Laws.EncodeRow.ldVxByte x kk
  | .addVxByte x kk => Laws.EncodeRow.addVxByte x kk
  | .ldVxVy x y => Laws.EncodeRow.ldVxVy x y
  | .orVxVy x y => Laws.EncodeRow.orVxVy x y
  | .andVxVy x y => Laws.EncodeRow.andVxVy x y
  | .xorVxVy x y => Laws.EncodeRow.xorVxVy x y
  | .addVxVy x y => Laws.EncodeRow.addVxVy x y
  | .subVxVy x y => Laws.EncodeRow.subVxVy x y
  | .shrVx x y => Laws.EncodeRow.shrVx x y
  | .subnVxVy x y => Laws.EncodeRow.subnVxVy x y
  | .shlVx x y => Laws.EncodeRow.shlVx x y
  | .sneVxVy x y => Laws.EncodeRow.sneVxVy x y
  | .ldIAddr nnn => Laws.EncodeRow.ldIAddr nnn
  | .jpV0Addr nnn => Laws.EncodeRow.jpV0Addr nnn
  | .rndVxByte x kk => Laws.EncodeRow.rndVxByte x kk
  | .drwVxVyNibble x y n => Laws.EncodeRow.drwVxVyNibble x y n
  | .skpVx x => Laws.EncodeRow.skpVx x
  | .sknpVx x => Laws.EncodeRow.sknpVx x
  | .ldVxDT x => Laws.EncodeRow.ldVxDT x
  | .ldVxK x => Laws.EncodeRow.ldVxK x
  | .ldDTVx x => Laws.EncodeRow.ldDTVx x
  | .ldSTVx x => Laws.EncodeRow.ldSTVx x
  | .addIVx x => Laws.EncodeRow.addIVx x
  | .ldFVx x => Laws.EncodeRow.ldFVx x
  | .ldBVx x => Laws.EncodeRow.ldBVx x
  | .ldMemIVx x => Laws.EncodeRow.ldMemIVx x
  | .ldVxMemI x => Laws.EncodeRow.ldVxMemI x

theorem decode_encode {i : Instr} (h : i.wellFormed = true) : decode (encode i) = .ok i := by
  obtain ⟨r, hr, ha, hbuild⟩ := encodeRow_statement i
  rw [decode_of_accepts hr ha, hbuild h]

/-- The two bytes of a word, the high one first, make the word (R45). -/
theorem wordOfBytes_high_low (op : Word) : wordOfBytes (highByte op) (lowByte op) = op :=
  BitVec.extractLsb'_append_extractLsb'_eq_extractLsb' rfl |>.trans (BitVec.extractLsb'_eq_self ..)

theorem decodeBytes_encodeBytes {i : Instr} (h : i.wellFormed = true) (rest : List Byte) :
    decodeBytes (encodeBytes i ++ rest) = .ok (i, rest) := by
  simp [encodeBytes, decodeBytes, wordOfBytes_high_low, decode_encode h]

/-- Settles O1. -/
theorem decodeOfEncodeGivesTheInstruction : Obligations.DecodeOfEncodeGivesTheInstruction := fun _ h =>
  ⟨decode_encode h, decodeBytes_encodeBytes h⟩

/-! ## Encoding what a row decodes (R64 to R66) -/

/-- The row builds well-formed instructions, and loses no bit of a word it accepts. -/
def OpcodeRow.Lossless (r : OpcodeRow) : Prop :=
  ∀ op, r.accepts op = true → encode (r.build op) = op ∧ (r.build op).wellFormed = true

theorem lossless_fixed (i : Instr) (hwf : i.wellFormed = true) : OpcodeRow.Lossless ⟨0xFFFF, encode i, fun _ => i⟩ := by
  intro op ha
  have hop : op &&& BitVec.allOnes 16 = encode i := beq_iff_eq.mp ha
  exact ⟨by rw [← hop, BitVec.and_allOnes], hwf⟩

theorem lossless_formatA (f : Nibble) (b : Addr12 → Instr)
    (hb : ∀ nnn, encode (b nnn) = formatA f nnn ∧ (b nnn).wellFormed = true) :
    OpcodeRow.Lossless ⟨0xF000, formatA f 0, fun op => b (fieldNNN op)⟩ := fun op ha =>
  ⟨(hb _).1.trans (eq_formatA_of_family op f (beq_iff_eq.mp ha)).symm, (hb _).2⟩

theorem lossless_formatXK (f : Nibble) (b : RegIndex → Byte → Instr)
    (hb : ∀ x kk, encode (b x kk) = formatXK f x kk ∧ (b x kk).wellFormed = true) :
    OpcodeRow.Lossless ⟨0xF000, formatXK f 0 0, fun op => b (fieldX op) (fieldKK op)⟩ := fun op ha =>
  ⟨(hb _ _).1.trans (eq_formatXK_of_family op f (beq_iff_eq.mp ha)).symm, (hb _ _).2⟩

theorem lossless_formatXY (f low : Nibble) (b : RegIndex → RegIndex → Instr)
    (hb : ∀ x y, encode (b x y) = formatXY f x y low ∧ (b x y).wellFormed = true) :
    OpcodeRow.Lossless ⟨0xF00F, formatXY f 0 0 low, fun op => b (fieldX op) (fieldY op)⟩ := fun op ha =>
  ⟨(hb _ _).1.trans (eq_formatXY_of_low op f low (beq_iff_eq.mp ha)).symm, (hb _ _).2⟩

theorem lossless_formatXF (f : Nibble) (function : Byte) (b : RegIndex → Instr)
    (hb : ∀ x, encode (b x) = formatXF f x function ∧ (b x).wellFormed = true) :
    OpcodeRow.Lossless ⟨0xF0FF, formatXF f 0 function, fun op => b (fieldX op)⟩ := fun op ha =>
  ⟨(hb _).1.trans (eq_formatXF_of_function op f function (beq_iff_eq.mp ha)).symm, (hb _).2⟩

theorem fieldN_lt (op : Word) : fieldN op < 16 := (op.extractLsb' 0 4).isLt

theorem lossless_drw :
    OpcodeRow.Lossless ⟨0xF000, 0xD000, fun op => .drwVxVyNibble (fieldX op) (fieldY op) (fieldN op)⟩ := fun op ha =>
  ⟨(eq_formatXY_of_family op 0xD (beq_iff_eq.mp ha)).symm, decide_eq_true (fieldN_lt op)⟩

theorem lossless_rowsControl : ∀ r ∈ rowsControl, r.Lossless := by
  simp only [rowsControl, List.forall_mem_cons]
  exact ⟨lossless_fixed .cls rfl,
    lossless_fixed .ret rfl,
    lossless_formatA 0x1 .jpAddr fun _ => ⟨rfl, rfl⟩,
    lossless_formatA 0x2 .callAddr fun _ => ⟨rfl, rfl⟩,
    lossless_formatXK 0x3 .seVxByte fun _ _ => ⟨rfl, rfl⟩,
    lossless_formatXK 0x4 .sneVxByte fun _ _ => ⟨rfl, rfl⟩,
    lossless_formatXY 0x5 0x0 .seVxVy fun _ _ => ⟨rfl, rfl⟩,
    lossless_formatXK 0x6 .ldVxByte fun _ _ => ⟨rfl, rfl⟩,
    lossless_formatXK 0x7 .addVxByte fun _ _ => ⟨rfl, rfl⟩, List.forall_mem_nil _⟩

theorem lossless_rowsFamily8 : ∀ r ∈ rowsFamily8, r.Lossless := by
  simp only [rowsFamily8, List.forall_mem_cons]
  exact ⟨lossless_formatXY 0x8 0x0 .ldVxVy fun _ _ => ⟨rfl, rfl⟩,
    lossless_formatXY 0x8 0x1 .orVxVy fun _ _ => ⟨rfl, rfl⟩,
    lossless_formatXY 0x8 0x2 .andVxVy fun _ _ => ⟨rfl, rfl⟩,
    lossless_formatXY 0x8 0x3 .xorVxVy fun _ _ => ⟨rfl, rfl⟩,
    lossless_formatXY 0x8 0x4 .addVxVy fun _ _ => ⟨rfl, rfl⟩,
    lossless_formatXY 0x8 0x5 .subVxVy fun _ _ => ⟨rfl, rfl⟩,
    lossless_formatXY 0x8 0x6 .shrVx fun _ _ => ⟨rfl, rfl⟩,
    lossless_formatXY 0x8 0x7 .subnVxVy fun _ _ => ⟨rfl, rfl⟩,
    lossless_formatXY 0x8 0xE .shlVx fun _ _ => ⟨rfl, rfl⟩, List.forall_mem_nil _⟩

theorem lossless_rowsMiddle : ∀ r ∈ rowsMiddle, r.Lossless := by
  simp only [rowsMiddle, List.forall_mem_cons]
  exact ⟨lossless_formatXY 0x9 0x0 .sneVxVy fun _ _ => ⟨rfl, rfl⟩,
    lossless_formatA 0xA .ldIAddr fun _ => ⟨rfl, rfl⟩,
    lossless_formatA 0xB .jpV0Addr fun _ => ⟨rfl, rfl⟩,
    lossless_formatXK 0xC .rndVxByte fun _ _ => ⟨rfl, rfl⟩,
    lossless_drw,
    lossless_formatXF 0xE 0x9E .skpVx fun _ => ⟨rfl, rfl⟩,
    lossless_formatXF 0xE 0xA1 .sknpVx fun _ => ⟨rfl, rfl⟩, List.forall_mem_nil _⟩

theorem lossless_rowsFamilyF : ∀ r ∈ rowsFamilyF, r.Lossless := by
  simp only [rowsFamilyF, List.forall_mem_cons]
  exact ⟨lossless_formatXF 0xF 0x07 .ldVxDT fun _ => ⟨rfl, rfl⟩,
    lossless_formatXF 0xF 0x0A .ldVxK fun _ => ⟨rfl, rfl⟩,
    lossless_formatXF 0xF 0x15 .ldDTVx fun _ => ⟨rfl, rfl⟩,
    lossless_formatXF 0xF 0x18 .ldSTVx fun _ => ⟨rfl, rfl⟩,
    lossless_formatXF 0xF 0x1E .addIVx fun _ => ⟨rfl, rfl⟩,
    lossless_formatXF 0xF 0x29 .ldFVx fun _ => ⟨rfl, rfl⟩,
    lossless_formatXF 0xF 0x33 .ldBVx fun _ => ⟨rfl, rfl⟩,
    lossless_formatXF 0xF 0x55 .ldMemIVx fun _ => ⟨rfl, rfl⟩,
    lossless_formatXF 0xF 0x65 .ldVxMemI fun _ => ⟨rfl, rfl⟩, List.forall_mem_nil _⟩

theorem lossless_of_mem_opcodeTable : ∀ r ∈ opcodeTable, r.Lossless := by
  simp only [opcodeTable, List.forall_mem_append]
  exact ⟨⟨⟨lossless_rowsControl, lossless_rowsFamily8⟩, lossless_rowsMiddle⟩, lossless_rowsFamilyF⟩

/-- Settles O2: the instruction comes from a row that accepts the word. -/
theorem encodeOfDecodeGivesTheWord : Obligations.EncodeOfDecodeGivesTheWord := by
  intro op i h
  rcases decode_cases op with ⟨r, hr, ha, hd⟩ | ⟨-, hd⟩
  · obtain rfl : r.build op = i := Except.ok.inj (hd.symm.trans h)
    exact lossless_of_mem_opcodeTable r hr op ha
  · exact nomatch hd.symm.trans h

/-! ## The rows of the map (R65, R66) -/

theorem fieldX_eq_ofNat (op : Word) : fieldX op = Fin.ofNat 16 (op.toNat / 256) := by
  ext; simp [fieldX, Fin.ofNat, Nat.shiftRight_eq_div_pow]

theorem fieldY_eq_ofNat (op : Word) : fieldY op = Fin.ofNat 16 (op.toNat / 16) := by
  ext; simp [fieldY, Fin.ofNat, Nat.shiftRight_eq_div_pow]

theorem fieldN_eq_mod (op : Word) : fieldN op = op.toNat % 16 := by
  simp [fieldN]

theorem fieldKK_eq_ofNat (op : Word) : fieldKK op = BitVec.ofNat 8 op.toNat := by
  apply BitVec.eq_of_toNat_eq; simp [fieldKK]

theorem fieldNNN_eq_ofNat (op : Word) : fieldNNN op = BitVec.ofNat 12 op.toNat := by
  apply BitVec.eq_of_toNat_eq; simp [fieldNNN]

/-- Settles O3: the statement lists the rows of the map, with their fields as numbers. -/
theorem decodeFollowsTheOpcodeMap : Obligations.DecodeFollowsTheOpcodeMap := by
  intro op
  have hrows : ∀ r ∈ opcodeTable, op &&& r.mask = r.pattern → decode op = .ok (r.build op) := fun r hr h =>
    decode_of_accepts hr (beq_iff_eq.mpr h)
  simpa only [opcodeTable, rowsControl, rowsFamily8, rowsMiddle, rowsFamilyF, List.cons_append, List.nil_append,
    List.forall_mem_cons, List.not_mem_nil, false_implies, implies_true, and_true, fieldX_eq_ofNat, fieldY_eq_ofNat,
    fieldN_eq_mod, fieldKK_eq_ofNat, fieldNNN_eq_ofNat] using hrows

/-! ## The words that no row accepts (R67) -/

theorem decode_unsupported_iff (op : Word) :
    decode op = .error (.unsupported op) ↔ ∀ r ∈ opcodeTable, op &&& r.mask ≠ r.pattern := by
  rcases decode_cases op with ⟨r, hr, ha, hd⟩ | ⟨hnone, hd⟩
  · simp only [hd, reduceCtorEq, false_iff]
    exact fun h => h r hr (beq_iff_eq.mp ha)
  · simp only [hd, true_iff]
    exact fun r hr => beq_eq_false_iff_ne.mp (hnone r hr)

theorem toNat_append_eq_add {w v : Nat} (a : BitVec w) (b : BitVec v) : (a ++ b).toNat = 2 ^ v * a.toNat + b.toNat := by
  rw [BitVec.toNat_append, Nat.shiftLeft_eq, Nat.mul_comm, Nat.two_pow_add_eq_or_of_lt b.isLt]

theorem toNat_formatA (f : Nibble) (nnn : Addr12) : (formatA f nnn).toNat = 4096 * f.toNat + nnn.toNat :=
  toNat_append_eq_add f nnn

theorem toNat_formatXY (f : Nibble) (x y : RegIndex) (n : Nibble) :
    (formatXY f x y n).toNat = 4096 * f.toNat + 256 * x.val + 16 * y.val + n.toNat := by
  rw [formatXY, toNat_append_eq_add, toNat_append_eq_add, toNat_append_eq_add]
  show 2 ^ 4 * (2 ^ 4 * (2 ^ 4 * f.toNat + x.val) + y.val) + n.toNat = _
  omega

theorem toNat_formatXF (f : Nibble) (x : RegIndex) (function : Byte) :
    (formatXF f x function).toNat = 4096 * f.toNat + 256 * x.val + function.toNat := by
  rw [formatXF, toNat_append_eq_add, toNat_append_eq_add]
  show 2 ^ 8 * (2 ^ 4 * f.toNat + x.val) + function.toNat = _
  omega

theorem toNat_family (op : Word) : (op.extractLsb' 12 4).toNat = op.toNat / 4096 := by
  have := op.isLt
  rw [BitVec.extractLsb'_toNat, Nat.shiftRight_eq_div_pow]
  omega

theorem toNat_and_ones (op : Word) : (op &&& 0xFFFF).toNat = op.toNat :=
  congrArg BitVec.toNat (BitVec.and_allOnes (x := op))

/-- A word under mask 0xF000 as a number: its family nibble (R62). -/
theorem toNat_and_family (op : Word) : (op &&& 0xF000).toNat = 4096 * (op.toNat / 4096) := by
  have hmask : op &&& 0xF000 = formatA (op.extractLsb' 12 4) 0 := by
    rw [← formatA_and_family _ (fieldNNN op), ← word_eq_formatA]
  simp only [hmask, toNat_formatA, toNat_family]
  rfl

/-- Under mask 0xF00F: its family nibble and its low nibble. -/
theorem toNat_and_low (op : Word) : (op &&& 0xF00F).toNat = 4096 * (op.toNat / 4096) + op.toNat % 16 := by
  have hmask : op &&& 0xF00F = formatXY (op.extractLsb' 12 4) 0 0 (op.extractLsb' 0 4) := by
    rw [← formatXY_and_low _ (fieldX op) (fieldY op), ← word_eq_formatXY]
  have hlow : (op.extractLsb' 0 4).toNat = op.toNat % 16 := fieldN_eq_mod op
  simp only [hmask, toNat_formatXY, toNat_family, hlow]
  rfl

/-- Under mask 0xF0FF: its family nibble and its low byte. -/
theorem toNat_and_function (op : Word) : (op &&& 0xF0FF).toNat = 4096 * (op.toNat / 4096) + op.toNat % 256 := by
  have hmask : op &&& 0xF0FF = formatXF (op.extractLsb' 12 4) 0 (fieldKK op) := by
    rw [← formatXF_and_function _ (fieldX op), formatXF, ← formatXK, ← word_eq_formatXK]
  simp only [hmask, toNat_formatXF, toNat_family, fieldKK_eq_ofNat, BitVec.toNat_ofNat]
  rfl

/-- Settles O5: with the masked words as numbers, only the rows of the word's own family bear on it. -/
theorem unsupportedWordsByFamily : Obligations.UnsupportedWordsByFamily := by
  intro op
  rw [decode_unsupported_iff]
  simp only [opcodeTable, rowsControl, rowsFamily8, rowsMiddle, rowsFamilyF, List.cons_append, List.nil_append,
    List.forall_mem_cons, ne_eq, ← BitVec.toNat_inj, toNat_and_ones, toNat_and_family, toNat_and_low, toNat_and_function]
  have hop := op.isLt
  generalize op.toNat = n at hop ⊢
  have hfamily : n / 4096 < 16 := by omega
  interval_cases hf : n / 4096
  all_goals simp -- closes the families in which every word is defined
  all_goals omega

/-! ## Samples (R66) and spellings (R69) -/

/-- Settles O6: each word is the encoding of its instruction; no row accepts the last. -/
theorem sampleWordsDecodeAsWritten : Obligations.SampleWordsDecodeAsWritten :=
  ⟨decode_encode (i := .cls) rfl, decode_encode (i := .callAddr 0x300) rfl, decode_encode (i := .seVxByte 10 0x05) rfl,
    decode_encode (i := .shrVx 10 11) rfl, decode_encode (i := .jpV0Addr 0x300) rfl,
    decode_encode (i := .rndVxByte 3 0x0F) rfl, decode_encode (i := .drwVxVyNibble 1 2 5) rfl,
    decode_encode (i := .sknpVx 3) rfl, decode_encode (i := .ldVxK 3) rfl, decode_encode (i := .ldVxMemI 15) rfl,
    (decode_unsupported_iff _).mpr (by decide)⟩

/-- The line of an instruction without an ignored field names it: DRW's row count passes the assembler's check. -/
theorem assemble_assembly {i : Instr} (hwf : i.wellFormed = true) (hshift : ∀ x y, i ≠ .shrVx x y ∧ i ≠ .shlVx x y) :
    assemble i.assembly = some i := by
  cases i with
  | shrVx x y => exact absurd rfl (hshift x y).1
  | shlVx x y => exact absurd rfl (hshift x y).2
  | drwVxVyNibble x y n => exact if_pos (of_decide_eq_true hwf)
  | _ => rfl

/-- Settles O7. -/
theorem assembleReadsBackEverySpelling : Obligations.AssembleReadsBackEverySpelling :=
  ⟨fun _ => assemble_assembly, fun _ _ => ⟨rfl, rfl⟩, fun _ _ => ⟨rfl, rfl⟩⟩

end Sys2Proof
end

section
/-! # The instruction cycle (30_encoding.md R60, R61) -/

namespace Sys2Proof.Machine

/-- A cycle that fetches an instruction runs it with PC advanced. -/
theorem runInstruction_of_decode {s : State} {i : Instr} (hpc : s.pc.toNat ≤ 0xFFE)
    (hd : decode (s.byteAt s.pc.toNat ++ s.byteAt (s.pc.toNat + 1)) = .ok i) : runInstruction s = exec i s.advance := by
  simp [runInstruction, fetch_ok s hpc, hd]

/-- Settles O8: the instruction runs at the state with the event taken off and PC advanced. -/
theorem stepRunsTheDecodedInstruction : Obligations.StepRunsTheDecodedInstruction := by
  intro s i hdue hmode hpc hd
  rw [← append_eq_ofNat] at hd
  refine ⟨s.taken.advance, (step_of_running_tick hdue hmode).trans (runInstruction_of_decode hpc hd), rfl, rfl, rfl, ?_⟩
  exact ((onlyChanges_taken s).trans (onlyChanges_advance s.taken)).mono (by decide)

/-- Taking off the due event and setting the result leaves the rest of the state. -/
theorem onlyChanges_taken_setTickResult (s : State) (r : TickResult) :
    OnlyChanges [.tickResult, .events] s (s.taken.setTickResult r) :=
  ((onlyChanges_taken s).trans (onlyChanges_setTickResult _ r)).mono (by decide)

/-- Settles O11. -/
theorem gatedTickChangesNoState : Obligations.GatedTickChangesNoState := by
  intro s hdue
  have hstep : step s = cpuTick s.taken := by rw [step, nextEvent, hdue, perform]
  refine ⟨fun hf => ⟨_, ?_, rfl, rfl, onlyChanges_taken_setTickResult s .halted⟩,
    fun hf hw => ⟨_, ?_, rfl, rfl, onlyChanges_taken_setTickResult s .idle⟩⟩
  · simp [hstep, cpuTick, hf]
  · simp [hstep, cpuTick, hf, hw]

end Sys2Proof.Machine
end

section
/-! # Control flow (40_control_flow.md) -/

namespace Sys2Proof.Machine

/-! ## Jumps and skips (R81, R82, R86 to R89) -/

@[simp] theorem toNat_zext16_addr (nnn : Addr12) : (zext16 nnn).toNat = nnn.toNat :=
  BitVec.toNat_setWidth_of_le (by decide)

/-- Settles O25. -/
theorem jpGoesToTheAddress : Obligations.JpGoesToTheAddress := fun nnn s =>
  ⟨_, rfl, toNat_zext16_addr nnn, onlyChanges_writePc s _⟩

/-- Settles O26: the sum is at most 255 + 4095, so the sixteen bits of PC hold it (D15). -/
theorem jpV0AddsV0ToTheAddress : Obligations.JpV0AddsV0ToTheAddress := by
  intro nnn s
  have hv : s.regNat 0 < 256 := (s.reg 0).isLt
  have hn := nnn.isLt
  have hpc : (BitVec.ofNat 16 (s.regNat 0 + nnn.toNat)).toNat = s.regNat 0 + nnn.toNat := by
    rw [BitVec.toNat_ofNat, Nat.mod_eq_of_lt (by omega)]
  exact ⟨_, rfl, hpc, onlyChanges_writePc s _⟩

/-- An instruction that answers a skip moves PC by the condition and changes nothing else (R85). -/
theorem answersSkip (s : State) {c : Bool} {a : Word} (h : (if c then s.pc + 2 else s.pc) = a) :
    ∃ t, (.next (s.skipIf c) : Result) = .next t ∧ t.pc = a ∧ OnlyChanges [.pc] s t :=
  ⟨_, rfl, (skipIf_pc s c).trans h, onlyChanges_skipIf s c⟩

/-- Settles O32: four skips, each on the Boolean form of its comparison. -/
theorem skipsOnRegisterComparisons : Obligations.SkipsOnRegisterComparisons := fun _ _ _ s =>
  ⟨answersSkip s (by simp), answersSkip s (by simp), answersSkip s (by simp), answersSkip s (by simp)⟩

/-! ## CALL and RET (R83, R84) -/

theorem exec_callAddr_next (nnn : Addr12) {s : State} (h : s.sp.toNat < 15) :
    exec (.callAddr nnn) s = .next ((s.push s.pc).writePc (zext16 nnn)) :=
  if_neg (by omega)

theorem exec_ret_next {s : State} {a : Word} (hsp : 1 ≤ s.sp.toNat) (ha : s.stackTop = some a) :
    exec .ret s = .next ((s.writePc a).dropTop) := by
  have hne : s.sp.toNat ≠ 0 := by omega
  simp [exec, execRet, hne, ha]

/-- A push leaves every entry but the one at the new SP. -/
theorem getElem?_push_stack_of_ne {s : State} {k : Nat} (a : Word) (hsp : s.sp.toNat < 15) (hk : k ≠ s.sp.toNat + 1) :
    (s.push a).stack[k]? = s.stack[k]? := by
  have hnew : (s.sp + 1).toNat ≠ k := fun h => hk (h ▸ s.sp_push a hsp)
  rw [State.push_stack, Vector.getElem?_setIfInBounds_ne hnew]

/-- Settles O27. -/
theorem callPushesTheReturnAddress : Obligations.CallPushesTheReturnAddress := by
  intro nnn s hsp
  have hnew : (s.push s.pc).sp.toNat = s.sp.toNat + 1 := s.sp_push s.pc hsp
  have htop : (s.push s.pc).stack[s.sp.toNat + 1]? = some s.pc := hnew ▸ s.stackTop_push s.pc hsp
  exact ⟨_, exec_callAddr_next nnn hsp, hnew, htop, fun _ => getElem?_push_stack_of_ne s.pc hsp, toNat_zext16_addr nnn,
    ((onlyChanges_push s s.pc).trans (onlyChanges_writePc _ _)).mono (by decide)⟩

/-- Settles O29: an SP from 1 to 15 names an entry. -/
theorem retPopsTheReturnAddress : Obligations.RetPopsTheReturnAddress := by
  intro s hlow hhigh
  have htop : s.stackTop = some (s.stack[s.sp.toNat]) := by rw [s.stackTop_eq, dif_pos]
  have hsp : (s.sp - 1).toNat = s.sp.toNat - 1 := by bv_omega
  exact ⟨_, exec_ret_next hlow htop, htop, hsp, (onlyChanges_writePc s _).trans (onlyChanges_dropTop _)⟩

/-! ## A CALL to a RET (R84, E5) -/

/-- A part allowed to change that reads the same in the end need not be allowed. -/
theorem OnlyChanges.drop {p : Part} {ps : List Part} {s t : State} (h : OnlyChanges (p :: ps) s t) (hp : p.Same s t) :
    OnlyChanges ps s t := by
  intro q hq
  by_cases hqp : q = p
  · exact hqp ▸ hp
  · exact h q (by simp [hqp, hq])

theorem run_succ_of_step {s t : State} (k : Nat) (h : step s = .next t) :
    Sys2Proof.core.run (k + 1) s = Sys2Proof.core.run k t := by
  simp [Host.Core.run, show Sys2Proof.core.step s = .next t from h]

/-- With no event pending, a running machine executes the instruction whose encoding it fetches (R61, log 1). -/
theorem step_of_fetch_encode {s : State} {i : Instr} (he : s.events = []) (hm : s.mode = .running)
    (hf : s.fetch = .ok (encode i)) (hwf : i.wellFormed = true) : step s = exec i s.advance := by
  have hdue : s.dueEvent = .cpuTick := by rw [State.dueEvent, he, List.headD_nil]
  have htaken : s.taken = s := by rw [State.taken, he, List.tail_nil, ← he]; rfl
  rw [step_of_running_tick hdue hm, htaken, runInstruction, hf]
  simp only [decode_encode hwf]

/-- The state after a tick that ran a CALL (R61, R83). -/
def State.afterCall (s : State) (nnn : Addr12) : State := (s.advance.push (s.pc + 2)).writePc (zext16 nnn)

/-- The state after a tick that ran a RET to `a` (R61, R84). -/
def State.afterRet (s : State) (a : Word) : State := (s.advance.writePc a).dropTop

theorem step_of_fetch_callAddr {s : State} {nnn : Addr12} (he : s.events = []) (hm : s.mode = .running)
    (hf : s.fetch = .ok (encode (.callAddr nnn))) (hsp : s.sp.toNat < 15) : step s = .next (s.afterCall nnn) :=
  (step_of_fetch_encode he hm hf rfl).trans (exec_callAddr_next (s := s.advance) nnn hsp)

theorem step_of_fetch_ret {s : State} {a : Word} (he : s.events = []) (hm : s.mode = .running)
    (hf : s.fetch = .ok (encode .ret)) (hsp : 1 ≤ s.sp.toNat) (htop : s.stackTop = some a) :
    step s = .next (s.afterRet a) :=
  (step_of_fetch_encode he hm hf rfl).trans (exec_ret_next (s := s.advance) hsp htop)

theorem onlyChanges_afterCall (s : State) (nnn : Addr12) :
    OnlyChanges [.stackPointer, .pc, .stackEntries, .tickResult] s (s.afterCall nnn) :=
  ((onlyChanges_advance s).trans ((onlyChanges_push _ _).trans (onlyChanges_writePc _ _))).mono (by decide)

theorem onlyChanges_afterRet (s : State) (a : Word) :
    OnlyChanges [.stackPointer, .pc, .tickResult] s (s.afterRet a) :=
  ((onlyChanges_advance s).trans ((onlyChanges_writePc _ _).trans (onlyChanges_dropTop _))).mono (by decide)

/-- Settles O31: the CALL pushes the address after it, the RET finds it on top, and SP ends as it was. -/
theorem callThenRetReturns : Obligations.CallThenRetReturns := by
  intro s nnn he hm hle hfetch hnnn hhigh hlow
  have hsp : s.sp.toNat < 15 := by omega
  have hpc : (s.afterCall nnn).pc.toNat = nnn.toNat := toNat_zext16_addr nnn
  have hret : (s.afterCall nnn).fetch = .ok (encode .ret) := by
    rw [fetch_ok _ (hpc ▸ hnnn), hpc]
    exact congrArg Except.ok (congrArg₂ (· ++ ·) hhigh hlow)
  have hpushed : 1 ≤ (s.afterCall nnn).sp.toNat := (Nat.le_add_left 1 _).trans (s.advance.sp_push (s.pc + 2) hsp).ge
  have htop : (s.afterCall nnn).stackTop = some (s.pc + 2) := s.advance.stackTop_push (s.pc + 2) hsp
  have hcall := run_succ_of_step 1 (step_of_fetch_callAddr he hm hfetch hsp)
  have hreturn := run_succ_of_step 0 (step_of_fetch_ret (s := s.afterCall nnn) he hm hret hpushed htop)
  have hback : s.sp + 1 - 1 = s.sp := by bv_omega
  have hframe := ((onlyChanges_afterCall s nnn).trans (onlyChanges_afterRet _ (s.pc + 2))).mono
    (qs := [.stackPointer, .pc, .stackEntries, .tickResult]) (by decide)
  exact ⟨_, hcall.trans hreturn, rfl, hback, hframe.drop hback⟩

end Sys2Proof.Machine
end

section
/-! # Arithmetic, logic and the random byte (41_alu.md) -/

namespace Sys2Proof.Machine

/-! ## Flag values and the wrapping difference (R106 to R111) -/

theorem carryFlag_eq (a b : Byte) : carryFlag a b = if 255 < a.toNat + b.toNat then 1 else 0 := by
  simp [carryFlag, flagByte]

theorem greaterFlag_eq (a b : Byte) : greaterFlag a b = if b.toNat < a.toNat then 1 else 0 := by
  simp [greaterFlag, flagByte]

theorem toNat_flagByte (c : Bool) : (flagByte c).toNat = c.toNat := by
  cases c <;> rfl

theorem toNat_lowBitFlag (a : Byte) : (lowBitFlag a).toNat = a.toNat % 2 := by
  rw [lowBitFlag, toNat_flagByte, BitVec.getLsbD, Nat.toNat_testBit, Nat.pow_zero, Nat.div_one]

theorem toNat_highBitFlag (a : Byte) : (highBitFlag a).toNat = a.toNat / 128 := by
  rw [highBitFlag, toNat_flagByte, BitVec.getLsbD, Nat.toNat_testBit]
  exact Nat.mod_eq_of_lt (by have := a.isLt; omega)

/-- The 256 added before the subtraction keeps it in the naturals and is lost in the byte (R111). -/
theorem toNat_wrappingSub (a b : Byte) : ((wrappingSub a b).toNat : Int) = ((a.toNat : Int) - b.toNat) % 256 := by
  have hb := b.isLt
  rw [wrappingSub, BitVec.toNat_ofNat]
  omega

/-! ## Instructions that write one register (R100 to R105) -/

theorem reg_writeReg_same (s : State) (x : RegIndex) (b : Byte) : (s.writeReg x b).reg x = b := by
  simp

/-- Settles O33. -/
theorem loadsWriteOneRegister : Obligations.LoadsWriteOneRegister := fun x _ _ s =>
  ⟨⟨_, rfl, reg_writeReg_same s x _, onlyChanges_writeReg s x _⟩,
    ⟨_, rfl, reg_writeReg_same s x _, onlyChanges_writeReg s x _⟩⟩

/-- Settles O34: the byte written is the exact sum, narrowed (R111). -/
theorem addByteWrapsAndSetsNoFlag : Obligations.AddByteWrapsAndSetsNoFlag := by
  intro x kk s
  refine ⟨_, rfl, ?_, onlyChanges_writeReg s x _⟩
  rw [reg_writeReg_same, BitVec.toNat_ofNat, State.regNat]

/-- Settles O35: a bit of the result is the operation on the operands' bits. -/
theorem logicIsBitwiseAndSetsNoFlag : Obligations.LogicIsBitwiseAndSetsNoFlag := by
  intro x y s
  refine ⟨⟨_, rfl, fun j _ => ?_, onlyChanges_writeReg s x _⟩, ⟨_, rfl, fun j _ => ?_, onlyChanges_writeReg s x _⟩,
    ⟨_, rfl, fun j _ => ?_, onlyChanges_writeReg s x _⟩⟩
  · rw [reg_writeReg_same, BitVec.getLsbD_or]
  · rw [reg_writeReg_same, BitVec.getLsbD_and]
  · rw [reg_writeReg_same, BitVec.getLsbD_xor]

/-! ## Instructions that write a result and then VF (R106 to R110, R112) -/

/-- VF holds the flag for every destination, VF itself included. -/
theorem reg_vf_writeResultThenFlag (s : State) (x : RegIndex) (b f : Byte) : (s.writeResultThenFlag x b f).reg 15 = f :=
  (s.reg_writeResultThenFlag x b f 15).trans (if_pos rfl)

theorem reg_writeResultThenFlag_same (s : State) {x : RegIndex} (b f : Byte) (hx : x ≠ 15) :
    (s.writeResultThenFlag x b f).reg x = b :=
  (s.reg_writeResultThenFlag x b f x).trans ((if_neg hx).trans (if_pos rfl))

/-- Settles O36. -/
theorem addSetsTheCarry : Obligations.AddSetsTheCarry := by
  intro x y s
  refine ⟨_, rfl, ?_, fun hx => ?_, onlyChanges_writeResultThenFlag s x _ _⟩
  · rw [reg_vf_writeResultThenFlag, carryFlag_eq]
  · rw [reg_writeResultThenFlag_same s _ _ hx, BitVec.toNat_ofNat, State.regNat, State.regNat]

/-- An instruction that answers a difference and its flag, the minuend `a` and the subtrahend `b` of either register. -/
theorem answersDifference (s : State) (x : RegIndex) (a b : Byte) :
    ∃ t, (.next (s.writeResultThenFlag x (wrappingSub a b) (greaterFlag a b)) : Result) = .next t
      ∧ t.reg 15 = (if b.toNat < a.toNat then 1 else 0)
      ∧ (x ≠ 15 → ((t.reg x).toNat : Int) = ((a.toNat : Int) - b.toNat) % 256)
      ∧ OnlyChanges [.reg x, .reg 15] s t := by
  refine ⟨_, rfl, ?_, fun hx => ?_, onlyChanges_writeResultThenFlag s x _ _⟩
  · rw [reg_vf_writeResultThenFlag, greaterFlag_eq]
  · rw [reg_writeResultThenFlag_same s _ _ hx, toNat_wrappingSub]

/-- Settles O37: SUBN is SUB with the operands exchanged. -/
theorem subtractionsSetTheStrictFlag : Obligations.SubtractionsSetTheStrictFlag := fun x y s =>
  ⟨answersDifference s x (s.reg x) (s.reg y), answersDifference s x (s.reg y) (s.reg x)⟩

/-- Settles O38: half of a byte needs no narrowing, its double does. -/
theorem shiftsSetTheBitShiftedOut : Obligations.ShiftsSetTheBitShiftedOut := by
  intro x y s
  have hhalf : s.regNat x / 2 < 256 := (Nat.div_le_self _ 2).trans_lt (s.reg x).isLt
  refine ⟨⟨_, rfl, ?_, fun hx => ?_, onlyChanges_writeResultThenFlag s x _ _⟩,
    ⟨_, rfl, ?_, fun hx => ?_, onlyChanges_writeResultThenFlag s x _ _⟩⟩
  · rw [reg_vf_writeResultThenFlag, toNat_lowBitFlag]
  · rw [reg_writeResultThenFlag_same s _ _ hx, BitVec.toNat_ofNat, Nat.mod_eq_of_lt hhalf, State.regNat]
  · rw [reg_vf_writeResultThenFlag, toNat_highBitFlag]
  · rw [reg_writeResultThenFlag_same s _ _ hx, BitVec.toNat_ofNat, State.regNat]

/-! ## The random byte (R113) -/

/-- Settles O39: a bit that `kk` clears is clear in the masked draw. -/
theorem rndMasksAFreeDraw : Obligations.RndMasksAFreeDraw := by
  intro x kk s
  have hreg : ((s.writeReg x (s.nextDraw &&& kk)).countDraw).reg x = Config.draw8 s.draws &&& kk :=
    reg_writeReg_same s x _
  refine ⟨_, rfl, hreg, fun j hj => ?_, rfl, (onlyChanges_writeReg s x _).trans (onlyChanges_countDraw _)⟩
  rw [hreg, BitVec.getLsbD_and, hj, Bool.and_false]

end Sys2Proof.Machine
end

section
/-! # The index register and the memory transfers (42_index_memory.md) -/

namespace Sys2Proof.Machine

/-! ## The check of a data access (R126, D24) -/

/-- Settles O45: the first offset whose address is above 0xFFF is `0x1000 - I`, which is 0 when I itself is above. -/
theorem reportedAddressIsTheFirstOutOfRange : Obligations.ReportedAddressIsTheFirstOutOfRange := by
  intro s n
  by_cases h : n = 0 ∨ s.base + n - 1 ≤ 0xFFF
  · rw [dataFault_none s n h, eq_comm, List.find?_eq_none]
    simp only [List.mem_map, List.mem_range, decide_eq_true_eq]
    rintro _ ⟨k, hk, rfl⟩
    omega
  · rw [dataFault_some s n (by omega) (by omega), eq_comm, List.find?_map, Option.map_eq_some_iff]
    refine ⟨0x1000 - s.base, ?_, by omega⟩
    simp only [List.find?_range_eq_some, Function.comp_apply, List.mem_range, Bool.not_eq_true', decide_eq_true_eq,
      decide_eq_false_iff_not]
    exact ⟨by omega, by omega, fun k hk => by omega⟩

/-- An instruction that reaches the bytes from I to `I + k`, one of them above 0xFFF, raises MemOutOfRange, code 2 (R151, D7). -/
theorem answersMemFault {s : State} (op : Word) {k : Nat} (t : State) (h : 0xFFF < s.base + k) :
    ∃ u, s.withData op (k + 1) t = .next u ∧ Raised s u .memOutOfRange (max s.base 0x1000) op (s.pc - 2)
      ∧ u.faultCauseCode = 2 := by
  obtain ⟨u, hu, hraised⟩ := withData_fault s op (k + 1) t (by omega) (by omega)
  exact ⟨u, hu, hraised, hraised.faultCauseCode_eq⟩

/-! ## Instructions that set I (R120 to R122) -/

/-- Settles O40: 255 * 5 fits the sixteen bits of I, so nothing of the product is cut off. -/
theorem loadIndexSetsI : Obligations.LoadIndexSetsI := by
  intro nnn x s
  have hv : s.regNat x < 256 := (s.reg x).isLt
  have hfont : (BitVec.ofNat 16 (s.regNat x * 5)).toNat = s.regNat x * 5 := by
    rw [BitVec.toNat_ofNat, Nat.mod_eq_of_lt (by omega)]
  exact ⟨⟨_, rfl, toNat_zext16_addr nnn, onlyChanges_writeI s _⟩, ⟨_, rfl, hfont, onlyChanges_writeI s _⟩⟩

/-- A remainder of either modulus fits the sixteen bits of I (R121). -/
theorem toNat_ofNat_mod_modulus (n : Nat) (m : IAddModulus) : (BitVec.ofNat 16 (n % m.toNat)).toNat = n % m.toNat := by
  rw [BitVec.toNat_ofNat]
  cases m <;> rw [IAddModulus.toNat] <;> omega

/-- Settles O41. -/
theorem addToIndexIsModulo : Obligations.AddToIndexIsModulo := by
  intro x s
  have hi := toNat_ofNat_mod_modulus (s.base + s.regNat x) s.iAddModulus
  exact ⟨_, rfl, fun hm => hi.trans (by rw [hm]; rfl), fun hm => hi.trans (by rw [hm]; rfl), onlyChanges_writeI s _⟩

/-! ## Stores and loads (R123 to R125) -/

/-- The byte at offset `k` of a run of stores. -/
theorem byteAt_storeBytes_add (s : State) (a k : Nat) {bytes : List Byte} {b : Byte} (h : bytes[k]? = some b) :
    (s.storeBytes a bytes).byteAt (a + k) = b := by
  rw [byteAt_storeBytes, if_pos (Nat.le_add_right a k), Nat.add_sub_cancel_left, h, Option.getD_some]

/-- A byte outside a run of stores reads as before. -/
theorem byteAt_storeBytes_of_outside (s : State) {a c : Nat} {bytes : List Byte} (h : c < a ∨ a + bytes.length ≤ c) :
    (s.storeBytes a bytes).byteAt c = s.byteAt c := by
  by_contra hchanged
  have := bounds_of_storeBytes_changed hchanged
  omega

/-- The bytes at I, I+1 and I+2 after a store of decimal digits: a digit `d` is below 256, so the byte is the digit (R123). -/
theorem toNat_byteAt_storeBytes_decimalDigits (s : State) (a v : Nat) {k d : Nat}
    (hk : (decimalDigits v)[k]? = some (BitVec.ofNat 8 d)) (hd : d < 256) :
    ((s.storeBytes a (decimalDigits v)).byteAt (a + k)).toNat = d := by
  rw [byteAt_storeBytes_add s a k hk, BitVec.toNat_ofNat, Nat.mod_eq_of_lt hd]

theorem length_decimalDigits (v : Nat) : (decimalDigits v).length = 3 := rfl

/-- Settles O42. -/
theorem storeDecimalDigits : Obligations.StoreDecimalDigits := by
  intro x s
  have hv : s.regNat x < 256 := (s.reg x).isLt
  refine ⟨fun hin => ⟨_, withData_next s _ 3 _ (.inr hin), ?_, ?_, ?_, fun a h0 h1 h2 => ?_, onlyChanges_storeBytes s _ _⟩,
    answersMemFault _ _⟩
  · exact toNat_byteAt_storeBytes_decimalDigits s s.base _ (k := 0) rfl (by omega)
  · exact toNat_byteAt_storeBytes_decimalDigits s s.base _ rfl (by omega)
  · exact toNat_byteAt_storeBytes_decimalDigits s s.base _ rfl (by omega)
  · exact byteAt_storeBytes_of_outside s (by rw [length_decimalDigits]; omega)

/-- Settles O43. -/
theorem storeRegisters : Obligations.StoreRegisters := by
  intro x s
  refine ⟨fun hin => ⟨_, exec_ldMemIVx_next hin, fun _ => byteAt_storeBytes_regsUpTo s, fun a ha => ?_,
    onlyChanges_storeBytes s _ _⟩, answersMemFault _ _⟩
  exact byteAt_storeBytes_of_outside s (by rw [State.length_regsUpTo]; omega)

/-- After the load of the registers up to `x` from `a`, `V[j]` is the byte at `a + j`. -/
theorem reg_loadRegs_bytesAt {x j : RegIndex} (s : State) (a : Nat) (h : j ≤ x) :
    (s.loadRegs (s.bytesAt a (x.val + 1))).reg j = s.byteAt (a + j.val) := by
  rw [State.reg_loadRegs, getElem?_bytesAt, if_pos (Nat.lt_succ_of_le (Fin.le_def.mp h)), Option.getD_some]

/-- Settles O44. -/
theorem loadRegisters : Obligations.LoadRegisters := fun x s =>
  ⟨fun hin => ⟨_, withData_next s _ (x.val + 1) _ (.inr hin), fun _ => reg_loadRegs_bytesAt s s.base,
    onlyChanges_loadRegs s _ x (Memory.length_readBytes _ _ _)⟩, answersMemFault _ _⟩

end Sys2Proof.Machine
end

section
/-! # The display (43_display.md) -/

namespace Sys2Proof.Machine

/-! ## XOR with a 1 bit (R132) -/

/-- XOR with `bit` toggles where `bit` is 1 and leaves the rest. -/
theorem toggles_of_eq_xor {old new bit : Bool} {Lit : Prop} (hbit : bit = true ↔ Lit) (hnew : new = (old ^^ bit)) :
    (Lit → new = !old) ∧ (¬ Lit → new = old) := by
  rw [← hbit, hnew]
  cases bit <;> simp

/-- XOR turns a pixel on exactly where the bit is 1 and the pixel is on afterwards. -/
theorem bit_and_xor_iff (bit old : Bool) : bit = true ∧ (old ^^ bit) = true ↔ old = false ∧ (old ^^ bit) = true := by
  cases bit <;> simp

theorem flagByte_eq_one_iff (c : Bool) : flagByte c = 1 ↔ c = true := by
  cases c <;> decide

theorem flagByte_eq_zero_iff (c : Bool) : flagByte c = 0 ↔ c = false := by
  cases c <;> decide

/-! ## Turning every pixel off (R131) -/

/-- Settles O47. -/
theorem clsTurnsEveryPixelOff : Obligations.ClsTurnsEveryPixelOff := fun s =>
  ⟨_, rfl, Framebuffer.pixel_blank, onlyChanges_writeFb s _⟩

/-! ## One row (R132) -/

/-- The bits of a row in the terms of claims: bit index `k` lands on column `x0 + k` mod 64. -/
theorem rowBit_iff (x0 : Nat) (b : Byte) (c : Fin 64) :
    rowBit x0 b c = true ↔ ∃ k, k < 8 ∧ c.val = (x0 + k) % 64 ∧ b.getLsbD (7 - k) = true := by
  simp only [rowBit, List.any_eq_true, List.mem_range, Bool.and_eq_true, beq_iff_eq, colOf, Fin.ext_iff, Fin.ofNat,
    eq_comm (b := c.val)]

/-- Settles O48: the collision bit speaks of the pixels of row `y0` mod 32, the only row with a lit pixel. -/
theorem drawRowTogglesItsBits : Obligations.DrawRowTogglesItsBits := by
  intro x0 y0 b fb lit
  have hlit : ∀ r c, (r == rowOf y0 && rowBit x0 b c) = true ↔ lit r c := fun r c => by
    rw [Bool.and_eq_true, beq_iff_eq, rowBit_iff, Fin.ext_iff, rowOf, Fin.ofNat]
  refine ⟨fun r c => toggles_of_eq_xor (hlit r c) ((drawRow_spec x0 y0 b fb).1 r c), ?_⟩
  rw [drawRow_collision]
  constructor
  · rintro ⟨c, hbit, hon⟩
    exact ⟨rowOf y0, c, (hlit _ c).mp (by simp [hbit]), hon⟩
  · rintro ⟨r, c, hrc, hon⟩
    obtain ⟨hr, hbit⟩ := Bool.and_eq_true_iff.mp ((hlit r c).mpr hrc)
    exact ⟨c, hbit, beq_iff_eq.mp hr ▸ hon⟩

/-! ## A sprite (R133) -/

/-- What `DRW Vx,Vy,n` draws in state `s`: the buffer and the collision flag. -/
def State.drawing (s : State) (x y : RegIndex) (n : Nat) : Framebuffer × Bool :=
  drawRows (s.regNat x) (s.regNat y) (s.bytesAt s.base n) s.fb

/-- The state after `DRW Vx,Vy,n`, when the bytes of the sprite exist (`exec_drw_next`). -/
def State.afterDraw (s : State) (x y : RegIndex) (n : Nat) : State :=
  (s.writeFb (s.drawing x y n).1).writeReg vf (flagByte (s.drawing x y n).2)

/-- Whether the sprite of `DRW Vx,Vy,n` has a 1 bit on a pixel, computed; `SpriteLights` as a Bool (`spriteOn_iff`). -/
def State.spriteOn (s : State) (x y : RegIndex) (n : Nat) (r : Fin 32) (c : Fin 64) : Bool :=
  spriteBit (s.regNat x) (s.regNat y) (s.bytesAt s.base n) r c

section

variable (s : State) (x y : RegIndex) {n : Nat}

theorem exec_drw_next (hin : n = 0 ∨ s.base + n - 1 ≤ 0xFFF) :
    exec (.drwVxVyNibble x y n) s = .next (s.afterDraw x y n) :=
  withData_next s _ n _ hin

theorem onlyChanges_afterDraw : OnlyChanges [.display, .reg 15] s (s.afterDraw x y n) :=
  (onlyChanges_writeFb s _).trans (onlyChanges_writeReg _ vf _)

theorem spriteOn_iff (r : Fin 32) (c : Fin 64) :
    s.spriteOn x y n r c = true ↔ SpriteLights s (s.reg x).toNat (s.reg y).toNat n r c :=
  spriteBit_iff s _ _ n r c

/-- A sprite has at most 15 rows, so no two of them wrap onto the same row of the display. -/
theorem drawing_spec (hn : n < 16) :
    (∀ r c, (s.drawing x y n).1.pixel r c = (s.pixel r c ^^ s.spriteOn x y n r c))
    ∧ ((s.drawing x y n).2 = true ↔ ∃ r c, s.spriteOn x y n r c = true ∧ s.pixel r c = true) :=
  drawRows_spec _ _ _ _ (by rw [State.bytesAt, Memory.length_readBytes]; omega)

theorem pixel_afterDraw (hn : n < 16) (r : Fin 32) (c : Fin 64) :
    (s.afterDraw x y n).pixel r c = (s.pixel r c ^^ s.spriteOn x y n r c) :=
  (drawing_spec s x y hn).1 r c

theorem reg_vf_afterDraw : (s.afterDraw x y n).reg 15 = flagByte (s.drawing x y n).2 :=
  reg_writeReg_same _ vf _

theorem reg_vf_afterDraw_eq_one_iff (hn : n < 16) :
    (s.afterDraw x y n).reg 15 = 1 ↔ ∃ r c, s.spriteOn x y n r c = true ∧ s.pixel r c = true := by
  rw [reg_vf_afterDraw, flagByte_eq_one_iff, (drawing_spec s x y hn).2]

theorem reg_vf_afterDraw_eq_zero_iff (hn : n < 16) :
    (s.afterDraw x y n).reg 15 = 0 ↔ ¬ ∃ r c, s.spriteOn x y n r c = true ∧ s.pixel r c = true := by
  rw [reg_vf_afterDraw, flagByte_eq_zero_iff, ← Bool.not_eq_true, (drawing_spec s x y hn).2]

end

/-- Settles O49. -/
theorem drawTogglesTheSprite : Obligations.DrawTogglesTheSprite := by
  intro x y n s hn hin
  simp only [← spriteOn_iff]
  exact ⟨_, exec_drw_next s x y hin, fun r c => toggles_of_eq_xor Iff.rfl (pixel_afterDraw s x y hn r c),
    (reg_vf_afterDraw_eq_one_iff s x y hn).mpr, (reg_vf_afterDraw_eq_zero_iff s x y hn).mpr,
    onlyChanges_afterDraw s x y⟩

/-- Settles O50. -/
theorem drawBeyondMemoryFaults : Obligations.DrawBeyondMemoryFaults := by
  intro x y n s hn hout
  obtain ⟨k, rfl⟩ := Nat.exists_eq_add_of_le' hn
  exact answersMemFault _ _ hout

/-! ## Drawing twice (R134 (a)) -/

/-- A draw that does not take its coordinates from VF leaves its own sprite as it was: a draw changes neither I nor memory. -/
theorem spriteOn_afterDraw (s : State) {x y : RegIndex} (n : Nat) (hx : x ≠ 15) (hy : y ≠ 15) :
    (s.afterDraw x y n).spriteOn x y n = s.spriteOn x y n := by
  have hreg : ∀ {z : RegIndex}, z ≠ 15 → (s.afterDraw x y n).reg z = s.reg z := fun hz =>
    onlyChanges_afterDraw s x y (.reg _) (by simp [hz])
  funext r c
  rw [State.spriteOn, State.spriteOn, State.regNat, State.regNat, hreg hx, hreg hy]
  rfl

/-- Settles O51: the second draw XORs the same bits, so the pixels come back, and it finds a pixel on under a 1 bit exactly
where the first draw turned it on. -/
theorem drawingTwiceRestoresTheDisplay : Obligations.DrawingTwiceRestoresTheDisplay := by
  intro x y n s hx hy hn hin
  have hframe := ((onlyChanges_afterDraw s x y).trans (onlyChanges_afterDraw (s.afterDraw x y n) x y (n := n))).mono
    (qs := [.display, .reg 15]) (by decide)
  have hrestored : Part.Same .display s ((s.afterDraw x y n).afterDraw x y n) := fun r c => by
    rw [pixel_afterDraw _ x y hn, pixel_afterDraw s x y hn, spriteOn_afterDraw s n hx hy, Bool.xor_assoc, Bool.xor_self,
      Bool.xor_false]
  refine ⟨_, _, exec_drw_next s x y hin, exec_drw_next (s.afterDraw x y n) x y hin, hframe.drop hrestored, ?_⟩
  rw [reg_vf_afterDraw_eq_one_iff _ x y hn]
  refine exists_congr fun r => exists_congr fun c => ?_
  rw [spriteOn_afterDraw s n hx hy, pixel_afterDraw s x y hn, bit_and_xor_iff]

end Sys2Proof.Machine
end

section
/-! # Keys and timers (44_keys_timers.md) -/

namespace Sys2Proof.Machine

/-! ## The key skips (R140, R141) -/

theorem exec_skpVx_next {x : RegIndex} {k : Fin 16} {s : State} (h : (s.reg x).toNat = k.val) :
    exec (.skpVx x) s = .next (s.skipIf (s.key k)) := by
  rw [exec, execSkpVx, keyIndex_some s x k h]

theorem exec_sknpVx_next {x : RegIndex} {k : Fin 16} {s : State} (h : (s.reg x).toNat = k.val) :
    exec (.sknpVx x) s = .next (s.skipIf (!s.key k)) := by
  rw [exec, execSknpVx, keyIndex_some s x k h]

/-- Settles O52: both are skips, SKNP on the negated latch bit. -/
theorem keySkipsReadTheLatch : Obligations.KeySkipsReadTheLatch := by
  intro x k s hk
  rw [exec_skpVx_next hk, exec_sknpVx_next hk]
  exact ⟨answersSkip s rfl, answersSkip s (by cases s.key k <;> rfl)⟩

/-! ## The timer transfers (R142, R144, R145) -/

/-- DELAY_ACTIVE and SOUND_ACTIVE are functions of the counters (R20), so they follow a write at once (D13). -/
theorem State.delayActive_iff (s : State) : s.delayActive = true ↔ s.dt ≠ 0 := bne_iff_ne

theorem State.soundActive_iff (s : State) : s.soundActive = true ↔ s.st ≠ 0 := bne_iff_ne

/-- Settles O54. -/
theorem timerTransfers : Obligations.TimerTransfers := fun x s =>
  ⟨⟨_, rfl, reg_writeReg_same s x _, onlyChanges_writeReg s x _⟩,
    ⟨_, rfl, s.writeDT_dt _, State.delayActive_iff _, onlyChanges_writeDT s _⟩,
    ⟨_, rfl, s.writeST_st _, State.soundActive_iff _, onlyChanges_writeST s _⟩⟩

/-! ## The wait for a key (R143, R169) -/

/-- The state a key press leaves behind a wait: the key in the wait's register, and the wait over. -/
def State.afterWait (s : State) (k : Fin 16) : State := (s.writeReg s.waitReg (BitVec.ofNat 8 k.val)).leaveWait

theorem step_of_due_keyPress {s : State} {k : Fin 16} (h : s.dueEvent = .keyPress k) :
    step s = .next (keyPress k s.taken) := by
  rw [step, nextEvent, h, perform]

/-- A waiting machine takes the key press (R169). -/
theorem keyPress_of_waiting {s : State} (k : Fin 16) (hf : s.faulted = false) (hw : s.wait = true) :
    keyPress k s = s.afterWait k := by
  simp [keyPress, State.afterWait, hf, hw]

/-- The wait's register holds the key's index, which fits a byte. -/
theorem toNat_reg_waitReg_afterWait (s : State) (k : Fin 16) : ((s.afterWait k).reg s.waitReg).toNat = k.val := by
  have hk := k.isLt
  rw [State.afterWait, State.leaveWait_reg, reg_writeReg_same, BitVec.toNat_ofNat, Nat.mod_eq_of_lt (by omega)]

theorem onlyChanges_afterWait (s : State) (k : Fin 16) : OnlyChanges [.reg s.waitReg, .wait] s (s.afterWait k) :=
  (onlyChanges_writeReg s _ _).trans (onlyChanges_leaveWait _)

/-- A due KEY_PRESS on a waiting machine that is not FAULTED writes the key's index to the wait's register and ends the wait. -/
theorem step_keyPress_of_waiting {s : State} {k : Fin 16} (hdue : s.dueEvent = .keyPress k) (hf : s.faulted = false)
    (hw : s.wait = true) :
    ∃ t, step s = .next t ∧ (t.reg s.waitReg).toNat = k.val ∧ t.wait = false ∧ t.events = s.events.tail
      ∧ OnlyChanges [.reg s.waitReg, .wait, .events] s t := by
  have hstep : step s = .next (s.taken.afterWait k) := by
    rw [step_of_due_keyPress hdue, keyPress_of_waiting k (s := s.taken) hf hw]
  have hframe := (onlyChanges_taken s).trans (onlyChanges_afterWait s.taken k)
  exact ⟨_, hstep, toNat_reg_waitReg_afterWait s.taken k, rfl, rfl, hframe.mono (by simp)⟩

/-- Settles O55: the suspended tick is the gating of O11. -/
theorem waitForKeySuspends : Obligations.WaitForKeySuspends := by
  intro x s
  refine ⟨⟨_, rfl, s.enterWait_wait x, s.enterWait_waitReg x, onlyChanges_enterWait s x⟩, fun hw hf hdue => ?_,
    fun k hw hf hdue => step_keyPress_of_waiting hdue hf hw⟩
  obtain ⟨-, hidle⟩ := gatedTickChangesNoState s hdue
  exact hidle hf hw

end Sys2Proof.Machine
end

section
/-! # Unsupported words and the events of the host (60_exceptions.md) -/

namespace Sys2Proof.Machine

/-! ## The end of a wait (R176) -/

/-- TIMER_TICK leaves WAIT, faulted or not. -/
@[simp] theorem timerTick_wait (s : State) : (timerTick s).wait = s.wait := by
  unfold timerTick
  split <;> rfl

/-- KEY_SET leaves WAIT: a key in the latch does not end a wait (R168). -/
@[simp] theorem keySet_wait (k : Fin 16) (b : Bool) (s : State) : (keySet k b s).wait = s.wait := by
  unfold keySet
  split <;> rfl

/-- Settles O19: the timer and the latch leave WAIT, and a CPU_TICK of a waiting machine is gated (R60). -/
theorem onlyKeyPressOrResetEndsAWait : Obligations.OnlyKeyPressOrResetEndsAWait := by
  intro s t hwait hstep hended
  have not_kept {u : State} (hs : step s = .next u) (hkept : u.wait = s.wait) : False := by
    rw [← next_inj (hs.symm.trans hstep), hkept, hwait] at hended
    exact Bool.noConfusion hended
  rcases step_cases s with ⟨l, hdue, -⟩ | ⟨-, hs⟩ | ⟨k, b, -, hs⟩ | ⟨k, hdue, -⟩ | ⟨-, -, hs⟩ | ⟨-, -, -, hs⟩ | ⟨-, hmode, -⟩
  · exact .inr ⟨l, hdue⟩
  · exact (not_kept hs (timerTick_wait _)).elim
  · exact (not_kept hs (keySet_wait k b _)).elim
  · exact .inl ⟨k, hdue⟩
  · exact (not_kept hs rfl).elim
  · exact (not_kept hs rfl).elim
  · obtain ⟨-, hrunning⟩ := (mode_running s).mp hmode
    exact absurd hwait (by simp [hrunning])

/-! ## An unsupported word (R156) -/

/-- A cycle that fetches no instruction advances PC and reports the word. -/
theorem runInstruction_of_no_decode {s : State} (hpc : s.pc.toNat ≤ 0xFFE)
    (hd : ∀ i, decode (s.byteAt s.pc.toNat ++ s.byteAt (s.pc.toNat + 1)) ≠ .ok i) :
    runInstruction s = .next
      (s.advance.setTickResult (.unsupported (s.byteAt s.pc.toNat ++ s.byteAt (s.pc.toNat + 1)))) := by
  rw [runInstruction, fetch_ok s hpc]
  rcases decode_cases (s.byteAt s.pc.toNat ++ s.byteAt (s.pc.toNat + 1)) with ⟨r, -, -, hok⟩ | ⟨-, herr⟩
  · exact absurd hok (hd _)
  · simp only [herr]

/-- Settles O9. -/
theorem stepReportsAnUnsupportedWord : Obligations.StepReportsAnUnsupportedWord := by
  rintro s _ hdue hmode hpc rfl hd
  rw [← append_eq_ofNat] at hd ⊢
  have hframe (r : TickResult) :=
    ((onlyChanges_taken s).trans (onlyChanges_advance s.taken)).trans (onlyChanges_setTickResult _ r)
  exact ⟨_, (step_of_running_tick hdue hmode).trans (runInstruction_of_no_decode hpc hd), rfl, rfl, rfl,
    (hframe _).mono (by decide)⟩

/-! ## TIMER_TICK (R165) -/

theorem step_of_due_timerTick {s : State} (h : s.dueEvent = .timerTick) : step s = .next (timerTick s.taken) := by
  rw [step, nextEvent, h, perform]

theorem timerTick_of_not_faulted {s : State} (hf : s.faulted = false) :
    timerTick s = (s.writeDT (countDown s.dt)).writeST (countDown s.st) := by
  simp [timerTick, hf]

/-- A counter saturates at zero, as subtraction of naturals does. -/
theorem toNat_countDown (b : Byte) : (countDown b).toNat = b.toNat - 1 := by
  unfold countDown
  split
  · bv_omega
  · omega

theorem countDown_eq_zero {b : Byte} (h : b.toNat = 0) : countDown b = 0 :=
  BitVec.eq_of_toNat_eq (by simp [toNat_countDown, h])

/-- Settles O12. -/
theorem timerTickCountsDown : Obligations.TimerTickCountsDown := by
  intro s hdue hf
  have hstep := (step_of_due_timerTick hdue).trans (congrArg _ (timerTick_of_not_faulted (s := s.taken) hf))
  have hframe := ((onlyChanges_taken s).trans (onlyChanges_writeDT _ (countDown s.dt))).trans
    (onlyChanges_writeST _ (countDown s.st))
  exact ⟨_, hstep, fun _ => toNat_countDown _, countDown_eq_zero, fun _ => toNat_countDown _, countDown_eq_zero, rfl,
    hframe.mono (by decide)⟩

/-! ## The key events (R168, R169) -/

theorem step_of_due_keySet {s : State} {k : Fin 16} {b : Bool} (h : s.dueEvent = .keySet k b) :
    step s = .next (keySet k b s.taken) := by
  rw [step, nextEvent, h, perform]

theorem keySet_of_not_faulted (k : Fin 16) (b : Bool) {s : State} (hf : s.faulted = false) :
    keySet k b s = s.writeKey k b := by
  simp [keySet, hf]

/-- Settles O13. -/
theorem keySetWritesOneLatchBit : Obligations.KeySetWritesOneLatchBit := by
  intro s k b hdue hf
  have hstep := (step_of_due_keySet hdue).trans (congrArg _ (keySet_of_not_faulted k b (s := s.taken) hf))
  have hframe := (onlyChanges_taken s).trans (onlyChanges_writeKey s.taken k b)
  exact ⟨_, hstep, by simp, fun j hj => by simp [hj], rfl, hframe.mono (by decide)⟩

/-- A machine that is not WAITING ignores the key press (D12). -/
theorem keyPress_of_not_waiting (k : Fin 16) {s : State} (h : s.faulted = true ∨ s.wait = false) : keyPress k s = s := by
  rcases h with hf | hw
  · simp [keyPress, hf]
  · simp [keyPress, hw]

/-- Settles O14: the taken key press is the end of the wait of O55. -/
theorem keyPressEndsTheWait : Obligations.KeyPressEndsTheWait := by
  refine fun s k hdue => ⟨step_keyPress_of_waiting hdue, fun hignored => ?_⟩
  have hstep := (step_of_due_keyPress hdue).trans (congrArg _ (keyPress_of_not_waiting k (s := s.taken) hignored))
  exact ⟨_, hstep, rfl, onlyChanges_taken s⟩

end Sys2Proof.Machine
end

section
/-! # The faults (60_exceptions.md R150 to R159), and the reset state

A fault of an instruction records the offender and has none of the effect; a FAULTED machine answers nothing but RESET. -/

namespace Sys2Proof.Machine

/-! ## An instruction that faults (R150, R155) -/

theorem faultRecord_notMem_effectParts (i : Instr) : .faultRecord ∉ effectParts i := by
  cases i <;> simp [effectParts]

/-- No effect reaches FAULTED, so an instruction that sets it has raised. -/
theorem raisedBy_of_faulted {i : Instr} {s t : State} (h : exec i s = .next t) (hs : s.faulted = false)
    (ht : t.faulted = true) : RaisedBy i s t := by
  rcases exec_split h with honly | hraised
  · obtain ⟨hkept, -⟩ := honly .faultRecord (faultRecord_notMem_effectParts i)
    exact absurd (ht.symm.trans (hkept.trans hs)) Bool.noConfusion
  · exact hraised

/-- Settles O23: what `raise` leaves, at the instruction's encoding and PC less 2 (log 11). -/
theorem faultingInstructionHasNoPartialEffect : Obligations.FaultingInstructionHasNoPartialEffect := by
  intro i s t h hs ht
  obtain ⟨_, _, -, -, rfl, -, hop, hpc, hresult, hframe⟩ := raisedBy_of_faulted h hs ht
  exact ⟨hop, hpc, hresult, hframe⟩

/-- Settles O24: the instruction runs with PC advanced by 2, and the word decoded is its encoding. -/
theorem faultingStepRecordsTheOffender : Obligations.FaultingStepRecordsTheOffender := by
  rintro s t _ i hdue hmode hpc rfl hd hstep ht
  obtain ⟨u, hexec, hadvanced, -, -, hbefore⟩ := stepRunsTheDecodedInstruction s i hdue hmode hpc hd
  obtain ⟨hf, -⟩ := (mode_running s).mp hmode
  have hu : u.faulted = false := (hbefore .faultRecord (by decide)).1.trans hf
  obtain ⟨_, _, hcause, -, rfl, -, hop, hfaultPc, hresult, hafter⟩ := raisedBy_of_faulted (hexec.symm.trans hstep) hu ht
  obtain ⟨hword, -⟩ := encodeOfDecodeGivesTheWord _ i hd
  have hfetched : u.pc - 2 = s.pc := by rw [hadvanced, BitVec.add_sub_cancel]
  have hkept : t.pc = u.pc := hafter .pc (by decide)
  exact ⟨hop.trans hword, hfaultPc.trans hfetched, hkept.trans hadvanced, hcause, hresult,
    (hbefore.trans hafter).mono (by decide)⟩

/-! ## A FAULTED machine (R153) -/

theorem timerTick_of_faulted {s : State} (hf : s.faulted = true) : timerTick s = s := if_pos hf

theorem keySet_of_faulted (k : Fin 16) (b : Bool) {s : State} (hf : s.faulted = true) : keySet k b s = s := if_pos hf

/-- A FAULTED machine ignores the timer and the keys, and gates a CPU_TICK (R60). -/
theorem step_of_faulted {s : State} (hf : s.faulted = true) (hreset : ∀ l, s.dueEvent ≠ .reset l) :
    step s = .next s.taken ∨ step s = .next (s.taken.setTickResult .halted) := by
  have hft : s.taken.faulted = true := hf
  rcases step_cases s with ⟨l, hdue, -⟩ | ⟨-, hs⟩ | ⟨k, b, -, hs⟩ | ⟨k, -, hs⟩ | ⟨-, -, hs⟩ | ⟨-, hnot, -⟩ | ⟨-, hmode, -⟩
  · exact absurd hdue (hreset l)
  · exact .inl (timerTick_of_faulted hft ▸ hs)
  · exact .inl (keySet_of_faulted k b hft ▸ hs)
  · exact .inl (keyPress_of_not_waiting k (.inl hft) ▸ hs)
  · exact .inr hs
  · exact absurd (hf.symm.trans hnot) Bool.noConfusion
  · obtain ⟨hnot, -⟩ := (mode_running s).mp hmode
    exact absurd (hf.symm.trans hnot) Bool.noConfusion

/-- Settles O18: the due event is taken off, and at most the result is set. -/
theorem faultedIsTerminal : Obligations.FaultedIsTerminal := by
  intro s hf hreset
  rcases step_of_faulted hf hreset with hs | hs
  · exact ⟨_, hs, rfl, (onlyChanges_taken s).mono (by decide)⟩
  · exact ⟨_, hs, rfl, onlyChanges_taken_setTickResult s .halted⟩

/-! ## The reset state (R180) -/

/-- Settles O20, the base case of O21: its lemma starts from the same state. -/
theorem resetIsLegal : Obligations.ResetIsLegal := legal_reset

/-! ## The stack and key faults (R83, R84, R140, R141) -/

/-- A fault that reports a byte: SP, or the register that names no key (R151). -/
theorem answersByteFault (s : State) (op : Word) (c : FaultCause) (b : Byte) :
    ∃ t, s.raiseIn op c b.toNat = .next t ∧ Raised s t c b.toNat op (s.pc - 2) ∧ t.faultCauseCode = c.code := by
  have hb := b.isLt
  obtain ⟨t, ht, hraised⟩ := raiseIn_next s op c b.toNat (by omega)
  exact ⟨t, ht, hraised, hraised.faultCauseCode_eq⟩

theorem exec_callAddr_fault (nnn : Addr12) {s : State} (hsp : 15 ≤ s.sp.toNat) :
    exec (.callAddr nnn) s = s.raiseIn (encode (.callAddr nnn)) .stackOverflow s.sp.toNat :=
  if_pos hsp

/-- Settles O28: the check comes before the push (R83), and is fatal (D8). -/
theorem callOnAFullStackFaults : Obligations.CallOnAFullStackFaults := by
  intro nnn s hsp
  rw [exec_callAddr_fault nnn hsp]
  exact answersByteFault s _ .stackOverflow s.sp

theorem exec_ret_fault {s : State} (hsp : s.sp.toNat = 0) :
    exec .ret s = s.raiseIn (encode .ret) .stackUnderflow s.sp.toNat :=
  if_pos hsp

/-- An SP above 15 names no entry to return to (R15, log 7). -/
theorem exec_ret_stop {s : State} (hsp : 16 ≤ s.sp.toNat) : exec .ret s = .fault .stackPointerOutOfRange := by
  have htop : s.stackTop = none := Vector.getElem?_eq_none hsp
  have hne : s.sp.toNat ≠ 0 := by omega
  simp [exec, execRet, hne, htop]

/-- Settles O30: the underflow fault reports the SP it found, which is 0 (D9). -/
theorem retOnAnEmptyStackFaults : Obligations.RetOnAnEmptyStackFaults := by
  refine fun s => ⟨fun hsp => ?_, exec_ret_stop⟩
  rw [exec_ret_fault hsp, ← hsp]
  exact answersByteFault s _ .stackUnderflow s.sp

theorem exec_skpVx_fault {x : RegIndex} {s : State} (h : 15 < (s.reg x).toNat) :
    exec (.skpVx x) s = s.raiseIn (encode (.skpVx x)) .keyIndexOutOfRange (s.reg x).toNat := by
  rw [exec, execSkpVx, keyIndex_none s x h, State.regNat]

theorem exec_sknpVx_fault {x : RegIndex} {s : State} (h : 15 < (s.reg x).toNat) :
    exec (.sknpVx x) s = s.raiseIn (encode (.sknpVx x)) .keyIndexOutOfRange (s.reg x).toNat := by
  rw [exec, execSknpVx, keyIndex_none s x h, State.regNat]

/-- Settles O53: both report the whole byte, not masked (D11). -/
theorem keyIndexAboveFifteenFaults : Obligations.KeyIndexAboveFifteenFaults := by
  intro x s hx
  rw [exec_skpVx_fault hx, exec_sknpVx_fault hx]
  exact ⟨answersByteFault s _ .keyIndexOutOfRange (s.reg x), answersByteFault s _ .keyIndexOutOfRange (s.reg x)⟩

end Sys2Proof.Machine
end
